-- ==== Sys2Proof/Word.lean ====
section
/-! DEFINITION. The fixed widths of the core (R6), bit numbering (R8), and a bit string of any width. -/

namespace Sys2Proof

/-- BLOCK_W = 64: a plaintext, a ciphertext, every intermediate whole block (R6). -/
abbrev Block := BitVec 64

/-- KEY_W = 64 (R6). -/
abbrev Key := BitVec 64

/-- HALF_W = 32: L and R (R6). -/
abbrev Half := BitVec 32

/-- PK_W = 56: the PC1 output and C‖D (R6). -/
abbrev PermutedKey := BitVec 56

/-- CD_W = 28: C and D (R6). -/
abbrev KeyHalf := BitVec 28

/-- RK_W = 48: a round key, and the E expansion (R6). -/
abbrev RoundKey := BitVec 48

/-- One 4-bit S-box value (R21). -/
abbrev Nibble := BitVec 4

abbrev Byte := BitVec 8

/-- The 129-bit command word CMD (R32). -/
abbrev CmdWord := BitVec 129

/-- The 66-bit response word RSP (R33). -/
abbrev RspWord := BitVec 66

/-- ROUNDS = 16 (R6). -/
abbrev numRounds : Nat := 16

/-- `mbit(v, W, j)`: the bit at 0-based position j counted from the most significant bit (R8). -/
abbrev mbit {W : Nat} (v : BitVec W) (j : Nat) : Bool := v.getMsbD j

/-- `v[hi:lo]`, the slice of `n` bits whose lowest bit is bit `lo` (R8, LSB-0). -/
abbrev slice {W : Nat} (v : BitVec W) (lo n : Nat) : BitVec n := v.extractLsb' lo n

/-- `ones(W)` (R8). -/
abbrev ones (W : Nat) : BitVec W := BitVec.allOnes W

/-- A value together with its width: an operand as a front-end presents it, whose width need not be 64
(R111), and a word presented on the command channel. -/
structure Bits where
  width : Nat
  value : BitVec width
  deriving DecidableEq, Repr

end Sys2Proof
end

