-- ==== Sys2Proof/Config.lean ====
section
/-! DEFINITION. The configuration of the core (R7): the shape of the table ROM, and the open latency. -/

namespace Sys2Proof

/-- The contents of the table ROM (R13, R21). The arity of each table is fixed by its type and S-box values are
4 bits wide, so neither can be wrong (R21, D19); an entry of a permutation table is an unbounded natural, so it can
be out of range, which is what InvalidTable detects (R43). SHIFTS is fixed (R6) and stands in Machine/Tables. -/
structure Tables where
  /-- initial permutation, 64 → 64 -/
  ip   : Vector Nat 64
  /-- final permutation, 64 → 64 -/
  fp   : Vector Nat 64
  /-- expansion, 32 → 48 -/
  e    : Vector Nat 48
  /-- output permutation of the F-function, 32 → 32 -/
  p    : Vector Nat 32
  /-- key selection, 64 → 56 -/
  pc1  : Vector Nat 56
  /-- round-key selection, 56 → 48 -/
  pc2  : Vector Nat 48
  /-- box g, row, column -/
  sbox : Vector (Vector (Vector Nibble 16) 4) 8
  deriving DecidableEq, Repr

/-- LATENCY (R7, R133): a natural constant, the same for every command; the spec leaves its value OPEN, so it has
no body here and nothing can be proved of its value (log 7). Only the port view (R39) reads it. -/
opaque Config.latency : Nat

end Sys2Proof
end

