-- ==== Sys2Proof/Machine/Tables.lean ====
section
/-! DEFINITION. The table ROM: reading it (R26), the check made at reset (R43), the structural premises (R44), and the
checked tables that permute works on (R50). -/

namespace Sys2Proof.Machine

open Sys2Proof

/-- Every entry lies in [1, n] (R43). -/
def inRange (n : Nat) (t : List Nat) : Bool := t.all fun v => decide (1 ≤ v) && decide (v ≤ n)

/-- RANGE_OK(TABLES), the check the core makes at reset (R43). It reads the six permutation tables only. -/
def rangeOk (t : Tables) : Bool :=
  inRange 64 t.ip.toList && inRange 64 t.fp.toList && inRange 32 t.e.toList && inRange 32 t.p.toList
    && inRange 64 t.pc1.toList && inRange 56 t.pc2.toList

/-- Every value 1..n occurs exactly once: with n entries, a bijection of 1..n (R44). -/
def bijective (n : Nat) (t : List Nat) : Bool := (List.range' 1 n).all fun v => t.count v == 1

/-- `IP[FP[j-1] - 1] = j` for all j in 1..64 (R44). -/
def fpInvertsIp (t : Tables) : Bool :=
  (List.range' 1 64).all fun j => (t.fp.toList[j - 1]?).bind (fun f => t.ip.toList[f - 1]?) == some j

/-- The IP/FP clauses of STRUCT_OK, the premise of the round trip (R44, R91). -/
def ipFpOk (t : Tables) : Bool :=
  bijective 64 t.ip.toList && bijective 64 t.fp.toList && fpInvertsIp t

/-- Every value 1..32 occurs in E, sixteen of them twice and sixteen once (R44). -/
def expansionOk (t : Tables) : Bool :=
  let counts := (List.range' 1 32).map fun v => t.e.toList.count v
  counts.count 2 == 16 && counts.count 1 == 16

/-- STRUCT_OK(TABLES) (R44). No operation reads it: it is a premise of the configuration, not a check (D18). -/
def structOk (t : Tables) : Bool := ipFpOk t && bijective 32 t.p.toList && expansionOk t

/-- A permutation table whose entries have been checked: M entries, each naming one of N input positions (R50). -/
structure PermTable (N M : Nat) where
  entries : Vector Nat M
  checked : inRange N entries.toList = true

/-- The tables of a core whose FATAL latch is 0. `permute` takes its tables from here, so an out-of-range entry is
given no meaning (R50, U7). -/
structure CheckedTables where
  ip   : PermTable 64 64
  fp   : PermTable 64 64
  e    : PermTable 32 48
  p    : PermTable 32 32
  pc1  : PermTable 64 56
  pc2  : PermTable 56 48
  sbox : Vector (Vector (Vector Nibble 16) 4) 8

/-- RANGE_OK, clause by clause. -/
theorem rangeOk_iff (t : Tables) : rangeOk t = true ↔
    inRange 64 t.ip.toList = true ∧ inRange 64 t.fp.toList = true ∧ inRange 32 t.e.toList = true ∧
    inRange 32 t.p.toList = true ∧ inRange 64 t.pc1.toList = true ∧ inRange 56 t.pc2.toList = true := by
  simp only [rangeOk, Bool.and_eq_true, and_assoc]

/-- The ROM's tables, once RANGE_OK holds of them. -/
def checkedTables (t : Tables) (h : rangeOk t = true) : CheckedTables where
  ip := ⟨t.ip, ((rangeOk_iff t).1 h).1⟩
  fp := ⟨t.fp, ((rangeOk_iff t).1 h).2.1⟩
  e := ⟨t.e, ((rangeOk_iff t).1 h).2.2.1⟩
  p := ⟨t.p, ((rangeOk_iff t).1 h).2.2.2.1⟩
  pc1 := ⟨t.pc1, ((rangeOk_iff t).1 h).2.2.2.2.1⟩
  pc2 := ⟨t.pc2, ((rangeOk_iff t).1 h).2.2.2.2.2⟩
  sbox := t.sbox

/-- SHIFTS: 1 for the rounds 0, 1, 8 and 15, and 2 for the others (R56). Fixed, not a parameter (R6). -/
def shifts : Vector Nat 16 := #v[1, 1, 2, 2, 2, 2, 2, 2, 1, 2, 2, 2, 2, 2, 2, 1]

/-- An address of the table ROM: a table's name and an index inside its index space (R21), so no read is out of
bounds (R26). -/
inductive RomAddr where
  | ip (i : Fin 64)
  | fp (i : Fin 64)
  | e (i : Fin 48)
  | p (i : Fin 32)
  | pc1 (i : Fin 56)
  | pc2 (i : Fin 48)
  | sbox (g : Fin 8) (row : Fin 4) (column : Fin 16)
  | shifts (i : Fin 16)
  deriving DecidableEq, Repr

/-- `SBOX[g][row][column]` (R70). -/
def sboxRead (sbox : Vector (Vector (Vector Nibble 16) 4) 8) (g : Fin 8) (row : Fin 4) (column : Fin 16) : Nibble :=
  sbox[g][row][column]

/-- `TableRead(name, i)`: the element of the ROM at that address; no side effect (R26). -/
def tableRead (t : Tables) : RomAddr → Nat
  | .ip i => t.ip[i]
  | .fp i => t.fp[i]
  | .e i => t.e[i]
  | .p i => t.p[i]
  | .pc1 i => t.pc1[i]
  | .pc2 i => t.pc2[i]
  | .sbox g row column => (sboxRead t.sbox g row column).toNat
  | .shifts i => shifts[i]

end Sys2Proof.Machine
end

