-- ==== Sys2Proof/Machine/Permutation.lean ====
section
/-! DEFINITION. BitPermutationEngine: `permute` (R40 to R42). -/

namespace Sys2Proof.Machine

open Sys2Proof

/-- The number whose binary digits are the list, most significant first. -/
def msbFirst (bits : List Bool) : Nat := bits.foldl (fun y b => 2 * y + b.toNat) 0

/-- `permute(x, N, T)`: output bit i, counted from the most significant bit, is input bit `T[i] - 1`, counted the same
way (R40, R49). Entry 1 is the most significant input bit. -/
def permute {N M : Nat} (x : BitVec N) (t : PermTable N M) : BitVec M :=
  BitVec.ofNat M (msbFirst (t.entries.toList.map fun v => mbit x (v - 1)))

end Sys2Proof.Machine
end

