-- ==== Sys2Proof/Machine/Feistel.lean ====
section
/-! DEFINITION. FeistelRound: the F-function (R65 to R72). -/

namespace Sys2Proof.Machine

open Sys2Proof

/-- Group g of the mixed value: `X[47-6g : 42-6g]`, group 0 the most significant (R68). -/
def group (x : RoundKey) (g : Fin 8) : BitVec 6 := slice x (42 - 6 * g.val) 6

/-- row = (b0, b5), the two outer bits, b0 the more significant (R69). -/
def sboxRow (v : BitVec 6) : BitVec 2 := slice v 5 1 ++ slice v 0 1

/-- column = (b1, b2, b3, b4), the four inner bits (R69). -/
def sboxColumn (v : BitVec 6) : BitVec 4 := slice v 1 4

/-- The output nibble of group g: box g at the group's row and column (R70). -/
def nibble (t : CheckedTables) (x : RoundKey) (g : Fin 8) : Nibble :=
  sboxRead t.sbox g (sboxRow (group x g)).toFin (sboxColumn (group x g)).toFin

/-- The eight nibbles, group 0 first (R70). -/
def substitute (t : CheckedTables) (x : RoundKey) : Half :=
  nibble t x 0 ++ nibble t x 1 ++ nibble t x 2 ++ nibble t x 3 ++ nibble t x 4 ++ nibble t x 5 ++ nibble t x 6
    ++ nibble t x 7

/-- `F(R, K)`: expand by E, mix with the round key, substitute, permute by P (R65). -/
def feistelF (t : CheckedTables) (r : Half) (k : RoundKey) : Half :=
  permute (substitute t (permute r t.e ^^^ k)) t.p

end Sys2Proof.Machine
end

