-- ==== Sys2Proof/Machine/KeySchedule.lean ====
section
/-! DEFINITION. KeySchedule: `generate` (R52 to R61). -/

namespace Sys2Proof.Machine

open Sys2Proof

/-- `rotl28(v, s)`: circular left rotation within 28 bits, as a shift and a wrap (R55). -/
def rotl28 (v : KeyHalf) (s : Nat) : KeyHalf := (v <<< s) ||| (v >>> (28 - s))

/-- C and D, the two halves of the permuted key (R54). -/
structure KeyHalves where
  c : KeyHalf
  d : KeyHalf
  deriving DecidableEq, Repr

/-- Steps 1 and 2: PC1, then C is the high half and D the low half (R53, R54). -/
def startHalves (t : CheckedTables) (key : Key) : KeyHalves :=
  let pk : PermutedKey := permute key t.pc1
  ⟨slice pk 28 28, slice pk 0 28⟩

/-- Step 3: C and D rotated independently (R55, R57). -/
def rotateHalves (h : KeyHalves) (s : Nat) : KeyHalves := ⟨rotl28 h.c s, rotl28 h.d s⟩

/-- Step 4: PC2 of C‖D (R58). -/
def roundKeyOf (t : CheckedTables) (h : KeyHalves) : RoundKey := permute (h.c ++ h.d : PermutedKey) t.pc2

/-- The rounds of the schedule: rotate, take the round key, carry C and D forward (R57, R58). -/
def schedule (t : CheckedTables) : List Nat → KeyHalves → List RoundKey
  | [], _ => []
  | s :: rest, h => roundKeyOf t (rotateHalves h s) :: schedule t rest (rotateHalves h s)

theorem schedule_length (t : CheckedTables) (ss : List Nat) (h : KeyHalves) : (schedule t ss h).length = ss.length := by
  induction ss generalizing h with
  | nil => rfl
  | cons s rest ih => simp [schedule, ih]

/-- `generate(key)`: the sixteen round keys, in order 0..15 (R52, R59). -/
def generate (t : CheckedTables) (key : Key) : Vector RoundKey 16 :=
  ⟨(schedule t shifts.toList (startHalves t key)).toArray, by simp [schedule_length]⟩

end Sys2Proof.Machine
end

