-- ==== Sys2Proof/Machine/Cipher.lean ====
section
/-! DEFINITION. BlockCipherCore: the common pass `crypt`, and encrypt and decrypt, which differ in the key order only
(R80, R83 to R88). -/

namespace Sys2Proof.Machine

open Sys2Proof

/-- L and R. -/
structure Halves where
  l : Half
  r : Half
  deriving DecidableEq, Repr

/-- Steps 1 and 2: IP, then L0 is the high half and R0 the low half (R83). -/
def startRounds (t : CheckedTables) (block : Block) : Halves :=
  let v : Block := permute block t.ip
  ⟨slice v 32 32, slice v 0 32⟩

/-- One round: the new L is the old R, the new R is the old L mixed with F of the old R (R84). -/
def round (t : CheckedTables) (h : Halves) (k : RoundKey) : Halves := ⟨h.r, h.l ^^^ feistelF t h.r k⟩

/-- The rounds, one for each round key in the order they are consumed (R84, R88). -/
def rounds (t : CheckedTables) (ks : List RoundKey) (h : Halves) : Halves := ks.foldl (round t) h

/-- Steps 4 and 5: `R16 ‖ L16`, R16 high, then FP (R85, R86). -/
def finish (t : CheckedTables) (h : Halves) : Block := permute (h.r ++ h.l : Block) t.fp

/-- The round keys in the order the rounds consume them. -/
def consumed (keys : Vector RoundKey 16) (order : Vector (Fin 16) 16) : List RoundKey :=
  order.toList.map fun i => keys[i]

/-- `crypt(block, key, order)`: one pass of exactly sixteen rounds (R80). The key schedule is evaluated afresh, on the
operation's own key (R61, R90). -/
def crypt (t : CheckedTables) (block : Block) (key : Key) (order : Vector (Fin 16) 16) : Block :=
  finish t (rounds t (consumed (generate t key) order) (startRounds t block))

/-- `order[r] = r` (R87). -/
def encryptOrder : Vector (Fin 16) 16 := #v[0, 1, 2, 3, 4, 5, 6, 7, 8, 9, 10, 11, 12, 13, 14, 15]

/-- `order[r] = 15 - r` (R87). -/
def decryptOrder : Vector (Fin 16) 16 := #v[15, 14, 13, 12, 11, 10, 9, 8, 7, 6, 5, 4, 3, 2, 1, 0]

/-- The value ENC responds with (R81). -/
def encrypt (t : CheckedTables) (block : Block) (key : Key) : Block := crypt t block key encryptOrder

/-- The value DEC responds with (R82). -/
def decrypt (t : CheckedTables) (block : Block) (key : Key) : Block := crypt t block key decryptOrder

end Sys2Proof.Machine
end

