-- ==== Sys2Proof/Syntax.lean ====
section
/-! DEFINITION. The operations of the core (R30): one constructor per row of spec/opcode_table.json. -/

namespace Sys2Proof

/-- The two operations the host can invoke (R30). An operand is a bit string of ANY width, as a front-end presents it
(R111): the 64-bit ports cannot carry another width, a wider front-end can, and then the operation answers
InvalidInputWidth. -/
inductive Instr where
  /-- `ENC block, key` (R81) -/
  | enc (block key : Bits)
  /-- `DEC block, key` (R82) -/
  | dec (block key : Bits)
  deriving DecidableEq, Repr

/-- The plaintext or ciphertext operand. -/
def Instr.block : Instr → Bits
  | .enc block _ => block
  | .dec block _ => block

/-- The key operand. -/
def Instr.key : Instr → Bits
  | .enc _ key => key
  | .dec _ key => key

end Sys2Proof
end

