-- ==== Sys2Proof/WellFormed.lean ====
section
/-! DEFINITION. The host's contract on operands (R31 (a)): exactly 64 bits each. -/

namespace Sys2Proof

/-- `width(v) = 64` (R9, R111). -/
def Bits.is64 (v : Bits) : Bool := v.width == 64

/-- Both operands are exactly 64 bits (R31, R111). An instruction that is not well formed has no command word (R32,
P4 of 95_test_vectors.md) but still runs: it is answered with InvalidInputWidth. -/
def Instr.wellFormed (i : Instr) : Bool := i.block.is64 && i.key.is64

end Sys2Proof
end

