-- ==== Sys2Proof/Decode.lean ====
section
/-! DEFINITION. The command and response formats (R32 to R37): the decoder, then the encoder, from one table of rows. -/

namespace Sys2Proof

/-- Why a presented word is no command. -/
inductive DecodeError where
  /-- the word is not 129 bits long: there is one command length and one format (R37; log 14) -/
  | wrongLength (bits : Nat)
  /-- no row of the operation table matches; never happens, since every 129-bit word is a legal command (R36) -/
  | noSuchOperation
  deriving DecidableEq, Repr

/-- One row of spec/opcode_table.json: a word w is the row's when `w &&& mask = pattern` (R34). -/
structure OpRow where
  mnemonic : String
  mask     : CmdWord
  pattern  : CmdWord
  build    : Bits → Bits → Instr

/-- The `op` bits of a word whose other bits are 0: `op` is bit 128 (R32). -/
def opAt128 (op : BitVec 1) : CmdWord := op ++ (0 : BitVec 64) ++ (0 : BitVec 64)

def rowEnc : OpRow := ⟨"ENC", opAt128 1, opAt128 0, .enc⟩

def rowDec : OpRow := ⟨"DEC", opAt128 1, opAt128 1, .dec⟩

/-- The operation table (R34). -/
def opRows : List OpRow := [rowEnc, rowDec]

def OpRow.hits (r : OpRow) (w : CmdWord) : Bool := w &&& r.mask == r.pattern

/-- The fields `op`, `block`, `key` of a command word (R32). -/
def CmdWord.op (w : CmdWord) : BitVec 1 := slice w 128 1

def CmdWord.block (w : CmdWord) : Block := slice w 64 64

def CmdWord.key (w : CmdWord) : Key := slice w 0 64

/-- A fixed-width value as an operand. -/
def Bits.of {n : Nat} (v : BitVec n) : Bits := ⟨n, v⟩

/-- The instruction of a 129-bit word: the first row that matches, with `block` and `key` taken verbatim (R35). -/
def decodeCmd (w : CmdWord) : Option Instr :=
  (opRows.find? fun r => r.hits w).map fun r => r.build (Bits.of (CmdWord.block w)) (Bits.of (CmdWord.key w))

/-- The value as a w-bit vector, when it has exactly that width. -/
def Bits.asWidth (w : Nat) (v : Bits) : Option (BitVec w) :=
  if h : v.width = w then some (v.value.cast h) else none

/-- The decoder, total on a word of any length. -/
def decode (w : Bits) : Except DecodeError Instr :=
  match w.asWidth 129 with
  | none => .error (.wrongLength w.width)
  | some cmd =>
    match decodeCmd cmd with
    | some i => .ok i
    | none => .error .noSuchOperation

/-- The row of an instruction. -/
def Instr.row : Instr → OpRow
  | .enc _ _ => rowEnc
  | .dec _ _ => rowDec

/-- The command word of an instruction, `op ‖ block ‖ key` (R32); none where an operand is not 64 bits, since it does
not fit its field (P4 step 1 of 95_test_vectors.md). -/
def encode (i : Instr) : Option CmdWord :=
  match i.block.asWidth 64, i.key.asWidth 64 with
  | some b, some k => some (i.row.pattern ||| ((0 : BitVec 1) ++ b ++ k))
  | _, _ => none

/-- A word of `nbits` bits numbered as the opcode table numbers them, every bit above `nbits` 0, as a presented word: the
129 bits of CMD, and no 129-bit word at all where a bit above bit 128 is set (log 14). -/
def tableWord (nbits w : Nat) : Bits :=
  let v := w % 2 ^ nbits
  if v < 2 ^ 129 then ⟨129, BitVec.ofNat 129 v⟩ else ⟨nbits, BitVec.ofNat nbits v⟩

/-- What the decoder reads from a word of the opcode table. -/
def decodeTableWord (nbits w : Nat) : Option Instr :=
  match decode (tableWord nbits w) with
  | .ok i => some i
  | .error _ => none

/-- The conditions the core reports, and completion (R113). Code 3 is reserved and never produced, so it has no
constructor (R36). -/
inductive Status where
  | ok
  | invalidInputWidth
  | invalidTable
  deriving DecidableEq, Repr

/-- The status codes (R33, R113). -/
def Status.code : Status → BitVec 2
  | .ok => 0
  | .invalidInputWidth => 1
  | .invalidTable => 2

/-- A response RSP (R33). Data exists in a response of status OK and in no other (R17); status 2 is in no response
(R33, C6), so there is no third constructor. -/
inductive Response where
  | ok (data : Block)
  | invalidInputWidth
  deriving DecidableEq, Repr

def Response.status : Response → Status
  | .ok _ => .ok
  | .invalidInputWidth => .invalidInputWidth

/-- The data of a response: no value where the status is not OK (R17, R33). -/
def Response.data : Response → Option Block
  | .ok d => some d
  | .invalidInputWidth => none

/-- The 66-bit word `status ‖ data` (R33), where it has a value: with another status than OK the data field holds none. -/
def Response.word (r : Response) : Option RspWord :=
  r.data.map fun d => r.status.code ++ d

/-- Reading a response word. Status 1 has no data to read; statuses 2 and 3 are in no response (R33, R36). -/
def decodeRsp (w : RspWord) : Option Response :=
  if slice w 64 2 = Status.code .ok then some (.ok (slice w 0 64))
  else if slice w 64 2 = Status.code .invalidInputWidth then some .invalidInputWidth
  else none

end Sys2Proof
end

