-- ==== Sys2Proof/Machine/State.lean ====
section
/-! DEFINITION. The state, as plain data; the reasons a step stops; the state after reset. -/

namespace Sys2Proof.Machine

open Sys2Proof

/-- The input pins of one clock cycle (R39). `clk` is the step itself. -/
structure PortInputs where
  /-- synchronous reset, active high -/
  rst      : Bool
  cmdValid : Bool
  cmdOp    : BitVec 1
  cmdBlock : Block
  cmdKey   : Key
  deriving DecidableEq, Repr

/-- What the host or the platform does next. The transaction-level events are the normative ones (R10, D1); `clock` is one
rising edge of the signal-level binding (R39, log 8). -/
inductive HostEvent where
  /-- a word on the command channel, a CMD word when it is 129 bits long (R32) -/
  | command (word : Bits)
  /-- a call through a front-end that admits operands of any width (R111) -/
  | call (i : Instr)
  /-- `rst` goes high: the core is held idle (R125) -/
  | assertReset
  /-- the platform replaces the contents of the table ROM (R22) -/
  | writeRom (t : Tables)
  /-- `rst` goes low: the tables are validated (R125) -/
  | releaseReset
  /-- one clock cycle of the ports (R39) -/
  | clock (pins : PortInputs)
  deriving DecidableEq, Repr

/-- An operation accepted on the ports and not yet answered (R39): its command word, sampled once (R131), and the number
of whole cycles that still pass before the cycle of its response. -/
structure InFlight where
  word      : CmdWord
  remaining : Nat
  deriving DecidableEq, Repr

/-- The core's state. `fatal` is the one latch of the architectural state (R11); `inReset` and `inFlight` are what R39, R125
and R128 say of the ports. The tables are configuration and no field of it: every step of the core takes them as a
parameter (R13). -/
structure CoreState where
  /-- the FATAL latch (R16) -/
  fatal    : Bool
  /-- `rst` is asserted (R125) -/
  inReset  : Bool
  /-- the operation in progress on the ports, if any (R39) -/
  inFlight : Option InFlight
  deriving DecidableEq, Repr

/-- The configured system, on which the host's one-argument step runs: the core's state, and beside it the parameter its
step is given and the host's side. `rom` is that parameter, the contents of the table ROM (R13, R21, log 2); `inputs` and
`responses` are the host's (log 3, log 4). -/
structure State extends CoreState where
  /-- the table ROM: the parameter of the core's step (R13, R21) -/
  rom       : Tables
  /-- what the host does next, oldest first -/
  inputs    : List HostEvent
  /-- the responses the host has received, oldest first (R135) -/
  responses : List Response
  deriving DecidableEq, Repr

/-- Why the machine has no step. Each is a state in which the spec gives the command no step (stuck), or a read of a
value that does not exist; each is SAFE, since the model stops and computes nothing. -/
inductive Fault where
  /-- A command presented while FATAL = 1: no step, not accepted, no response (R112, U6). Raised by ENC and DEC. Safe. -/
  | invalidTable
  /-- A command presented while `rst` is asserted: the core is idle and accepts nothing (R125). Raised by ENC and DEC.
  Safe. -/
  | heldInReset
  /-- A command presented while an operation is in progress on the ports: not accepted and not queued (R131, U10). Raised
  by ENC and DEC. Safe. -/
  | busy
  /-- A read of `rsp_status` or `rsp_data` while it holds no value (R17). Raised by the host's reads of the ports, by no
  instruction. Safe. -/
  | noValueOnPort
  deriving DecidableEq, Repr

/-- Why the model gives no meaning. -/
inductive Refusal where
  /-- An instruction without a meaning: no arm of exec answers this. Safe. -/
  | notModelled (mnemonic : String)
  /-- A presented word that is no command word (R37, log 14). Raised when a command word is taken. Safe. -/
  | undecodable (e : DecodeError)
  /-- The ROM was written while the core is out of reset: no meaning (R22, U11). Raised by the platform's event. Safe. -/
  | romChangeOutsideReset
  /-- An operation over tables that fail RANGE_OK although FATAL = 0 (R50, U7): no run reaches such a state. Raised by ENC
  and DEC. Safe. -/
  | uncheckedTable
  deriving DecidableEq, Repr

/-- What a step of the core answers: its next state, and the response that is the step's output event, if any (R17). -/
abbrev CoreResult := Host.Outcome (CoreState × Option Response) Fault Refusal

/-- What an event or an instruction answers on the configured system. -/
abbrev Result := Host.Outcome State Fault Refusal

/-- Reset as a function from TABLES to the core's initial state (R125): FATAL is 0 exactly when RANGE_OK holds, and no
operation is in progress. -/
def CoreState.afterReset (t : Tables) : CoreState where
  fatal := !rangeOk t
  inReset := false
  inFlight := none

/-- A core just out of reset over tables `t`. Nothing is presented yet and nothing has been answered (log 3, log 4). -/
def State.afterReset (t : Tables) : State where
  toCoreState := CoreState.afterReset t
  rom := t
  inputs := []
  responses := []

/-- The machine right after reset is released, with the spec's default ROM, TABLES_FIPS (R18, D4, log 1). -/
def State.reset : State := State.afterReset tablesFips

end Sys2Proof.Machine
end

