-- ==== Sys2Proof/Machine/Flags.lean ====
section
/-! DEFINITION. The core has no flags and no condition codes (R12). What stands in their place: the outputs that show the
FATAL latch and readiness (R18, R39). -/

namespace Sys2Proof.Machine

open Sys2Proof

/-- `cmd_ready`: 1 exactly when FATAL = 0 and no operation is in progress (R39); held in reset, the core accepts nothing
(R125). -/
def CoreState.cmdReady (c : CoreState) : Bool := !c.inReset && !c.fatal && c.inFlight.isNone

/-- `fatal` (R39). -/
def CoreState.fatalOut (c : CoreState) : Bool := c.fatal

/-- `status_out`: 2 while `fatal` = 1, else 0 (R39). -/
def CoreState.statusOut (c : CoreState) : BitVec 2 :=
  if c.fatalOut then Status.code .invalidTable else Status.code .ok

/-- Why a command presented now has no step, if it has none: held in reset (R125), FATAL (R112), busy (R131). -/
def CoreState.blocked (c : CoreState) : Option Fault :=
  if c.inReset then some .heldInReset
  else if c.fatal then some .invalidTable
  else if c.inFlight.isSome then some .busy
  else none

end Sys2Proof.Machine
end

