-- ==== Sys2Proof/Machine/Operands.lean ====
section
/-! DEFINITION. The operand forms: how a front-end presents an operand (R111), and the width check (R111, R35). -/

namespace Sys2Proof.Machine

open Sys2Proof

/-- A natural number as an operand: 64 bits when it is below 2^64, otherwise as wide as it needs, and so not exactly 64 bits
(R111, D7, log 13). It is never truncated. -/
def naturalOperand (n : Nat) : Bits :=
  if n < 2 ^ 64 then ⟨64, BitVec.ofNat 64 n⟩ else ⟨n.log2 + 1, BitVec.ofNat (n.log2 + 1) n⟩

/-- A list of bits, most significant first, as an operand: as wide as the list is long, never padded (R111). -/
def bitListOperand (bits : List Bool) : Bits :=
  ⟨bits.length, BitVec.ofNat bits.length (bits.foldl (fun y b => 2 * y + b.toNat) 0)⟩

/-- A byte string as an operand: byte 0 is the most significant (R23, D12). -/
def byteStringOperand (bytes : List Byte) : Bits :=
  ⟨8 * bytes.length, BitVec.ofNat (8 * bytes.length) (bytes.foldl (fun y b => 256 * y + b.toNat) 0)⟩

/-- A 64-bit value as 8 bytes, byte 0 first: byte k is bits [63-8k : 56-8k] (R23, D12). -/
def blockBytes (v : Block) : List Byte := (List.range 8).map fun k => slice v (56 - 8 * k) 8

/-- The width check: both operands as 64-bit vectors, or none when one is not exactly 64 bits (R111). One answer covers
either operand and both. -/
def operands64 (block key : Bits) : Option (Block × Key) :=
  match block.asWidth 64, key.asWidth 64 with
  | some b, some k => some (b, k)
  | _, _ => none

end Sys2Proof.Machine
end

