-- ==== Sys2Proof/Machine/Ops.lean ====
section
/-! DEFINITION. The named operations. First the core's own, which take the tables as a parameter and never change them
(R13): raising the two conditions, reset, and the one operation that both instructions run (R81, R82). Then the configured
system's: taking over what a step of the core answers, and the platform's change of the ROM. There is no trap entry and no
return (R117, R119). -/

namespace Sys2Proof.Machine

open Sys2Proof

/-! The core -/

/-- `raise InvalidInputWidth`: the step responds with status 1 and no data, and nothing else happens (R111, R119). -/
def CoreState.raiseInvalidInputWidth (c : CoreState) : CoreResult := .next (c, some .invalidInputWidth)

/-- `raise InvalidTable`: FATAL <- 1 (R9, R112). -/
def CoreState.raiseInvalidTable (c : CoreState) : CoreState := { c with fatal := true }

/-- The load-time step: validate the tables and set the latch (R16, R125). -/
def CoreState.validate (t : Tables) (c : CoreState) : CoreState :=
  if rangeOk t then { c with fatal := false } else c.raiseInvalidTable

def CoreState.setInFlight (c : CoreState) (o : Option InFlight) : CoreState := { c with inFlight := o }

/-- `rst` is asserted: an operation in progress is abandoned, with no response (R125, R128). FATAL keeps its value until
the release (R16, log 9). -/
def CoreState.holdReset (c : CoreState) : CoreState := { c with inReset := true, inFlight := none }

/-- `rst` is released: the tables are validated and no operation is in progress (R125). -/
def CoreState.releaseReset (t : Tables) (c : CoreState) : CoreState :=
  CoreState.validate t { c with inReset := false, inFlight := none }

/-- What ENC and DEC do over the tables `t`, `f` being the function they compute (R81, R82). A blocked core takes no step
(R112). The width check comes first, before any computation (R111). Then the value is computed and delivered with
status 0. -/
def operate (f : CheckedTables → Block → Key → Block) (t : Tables) (block key : Bits) (c : CoreState) : CoreResult :=
  match c.blocked with
  | some r => .fault r
  | none =>
    match operands64 block key with
    | none => c.raiseInvalidInputWidth
    | some (b, k) =>
      if h : rangeOk t = true then .next (c, some (.ok (f (checkedTables t h) b k)))
      else .refused .uncheckedTable

/-! The configured system -/

/-- `respond (status, data)`, as the host receives it: the response joins its record (R9, R17). -/
def State.respond (s : State) (r : Response) : State := { s with responses := s.responses ++ [r] }

/-- The system takes over what a step of its core answers: the core's next state, and the response, if the step has one.
The ROM is no part of that answer, so no step of the core changes it (R13). -/
def State.absorb (s : State) (r : CoreResult) : Result :=
  match r with
  | .next (c, none) => .next { s with toCoreState := c }
  | .next (c, some r) => .next (State.respond { s with toCoreState := c } r)
  | .fault r => .fault r
  | .refused r => .refused r

def State.setInFlight (s : State) (o : Option InFlight) : State := { s with toCoreState := s.toCoreState.setInFlight o }

def State.setInputs (s : State) (es : List HostEvent) : State := { s with inputs := es }

/-- `rst` is asserted (R125, R128). -/
def State.holdReset (s : State) : State := { s with toCoreState := s.toCoreState.holdReset }

/-- `rst` is released, over the ROM as it then is (R125). -/
def State.releaseReset (s : State) : State := { s with toCoreState := s.toCoreState.releaseReset s.rom }

/-- The platform replaces the ROM's contents: only while the core is in reset; at any other time a change has no meaning
(R22, U11). -/
def State.writeRom (s : State) (t : Tables) : Result :=
  if s.inReset then .next { s with rom := t } else .refused .romChangeOutsideReset

end Sys2Proof.Machine
end

