-- ==== Sys2Proof/Machine/BlockCipher.lean ====
section
/-! DEFINITION. The meanings of the two operations of the host (R81, R82): the core's step over the tables it is given, and
that step on the configured system. -/

namespace Sys2Proof.Machine

open Sys2Proof

/-- `ENC block, key` over the tables `t` (R81). -/
def coreEnc (t : Tables) (block key : Bits) (c : CoreState) : CoreResult := operate encrypt t block key c

/-- `DEC block, key` over the tables `t` (R82). -/
def coreDec (t : Tables) (block key : Bits) (c : CoreState) : CoreResult := operate decrypt t block key c

/-- A command's step of the core over the tables `t` (R10, R13). -/
def coreExec (t : Tables) (i : Instr) (c : CoreState) : CoreResult :=
  match i with
  | .enc block key => coreEnc t block key c
  | .dec block key => coreDec t block key c

/-- `ENC block, key` on the configured system: the ROM is the parameter (R13, R81). -/
def execEnc (block key : Bits) (s : State) : Result := s.absorb (coreEnc s.rom block key s.toCoreState)

/-- `DEC block, key` on the configured system: the ROM is the parameter (R13, R82). -/
def execDec (block key : Bits) (s : State) : Result := s.absorb (coreDec s.rom block key s.toCoreState)

end Sys2Proof.Machine
end

