-- ==== Sys2Proof/Machine/Dispatch.lean ====
section
/-! DEFINITION. One arm per constructor of Instr. -/

namespace Sys2Proof.Machine

open Sys2Proof

def exec (i : Instr) (s : State) : Host.Outcome State Fault Refusal :=
  match i with
  | .enc block key => Sys2Proof.Machine.execEnc block key s
  | .dec block key => Sys2Proof.Machine.execDec block key s

end Sys2Proof.Machine
end

