-- ==== Sys2Proof/Machine/Ports.lean ====
section
/-! DEFINITION. Taking a command word, and the signal-level binding (R39, R131): one clock cycle of the ports. LATENCY and the
tables are parameters of the core's definitions; Events supplies `Config.latency` and the ROM. -/

namespace Sys2Proof.Machine

open Sys2Proof

/-- A word on the command channel of a core over the tables `t`: decoded, then run. -/
def coreWord (t : Tables) (w : Bits) (c : CoreState) : CoreResult :=
  match decode w with
  | .ok i => coreExec t i c
  | .error e => .refused (.undecodable e)

/-- A word on the command channel of the configured system: decoded, then run. -/
def runWord (w : Bits) (s : State) : Result :=
  match decode w with
  | .ok i => exec i s
  | .error e => .refused (.undecodable e)

/-- The command word the pins present: `op ‖ block ‖ key` (R32, R39). -/
def PortInputs.word (p : PortInputs) : CmdWord := p.cmdOp ++ p.cmdBlock ++ p.cmdKey

/-- Idle pins: nothing presented, no reset. -/
def PortInputs.idle : PortInputs := ⟨false, false, 0, 0, 0⟩

/-- What one cycle does. -/
inductive PortAction where
  /-- `rst` is high -/
  | hold
  /-- the first cycle with `rst` low after a reset: the tables are validated (log 8) -/
  | release
  /-- nothing is accepted and nothing is in progress -/
  | idle
  /-- a command is accepted; its response comes LATENCY cycles later -/
  | accept (word : CmdWord)
  /-- an operation is in progress and its response is not due -/
  | wait (o : InFlight)
  /-- the response is present in this cycle -/
  | respond (word : CmdWord)
  deriving DecidableEq, Repr

/-- The action of a cycle (R39). Reset has priority over acceptance and response (R116, R128). A command is accepted when
`cmd_valid` and `cmd_ready` are 1; with LATENCY = 0 the response is combinational in that cycle. -/
def portAction (latency : Nat) (p : PortInputs) (c : CoreState) : PortAction :=
  if p.rst then .hold
  else if c.inReset then .release
  else match c.inFlight with
    | some o => if o.remaining = 0 then .respond o.word else .wait o
    | none =>
      if p.cmdValid && c.cmdReady then (if latency = 0 then .respond p.word else .accept p.word)
      else .idle

/-- One rising edge of `clk` for a core over the tables `t` (R39). The response of a cycle is what the transaction-level
operation delivers. -/
def coreClock (latency : Nat) (t : Tables) (p : PortInputs) (c : CoreState) : CoreResult :=
  match portAction latency p c with
  | .hold => .next (c.holdReset, none)
  | .release => .next (c.releaseReset t, none)
  | .idle => .next (c, none)
  | .accept w => .next (c.setInFlight (some ⟨w, latency - 1⟩), none)
  | .wait o => .next (c.setInFlight (some ⟨o.word, o.remaining - 1⟩), none)
  | .respond w => coreWord t (Bits.of w) (c.setInFlight none)

/-- One rising edge of `clk` on the configured system (R39, log 10). -/
def clockEdge (latency : Nat) (p : PortInputs) (s : State) : Result := s.absorb (coreClock latency s.rom p s.toCoreState)

/-- The cycles of a list of pins, oldest first. -/
def clockEdges (latency : Nat) : List PortInputs → State → Result
  | [], s => .next s
  | p :: rest, s =>
    match clockEdge latency p s with
    | .next s' => clockEdges latency rest s'
    | .fault r => .fault r
    | .refused r => .refused r

/-- The output pins of one clock cycle (R39); `none` is a port that holds no value (R17). -/
structure PortOutputs where
  cmdReady  : Bool
  rspValid  : Bool
  rspStatus : Option (BitVec 2)
  rspData   : Option Block
  fatal     : Bool
  statusOut : BitVec 2
  deriving DecidableEq, Repr

/-- The response present in a cycle, if one is: the output event of that cycle's step (R17, R39). -/
def portResponse (latency : Nat) (p : PortInputs) (s : State) : Option Response :=
  match coreClock latency s.rom p s.toCoreState with
  | .next (_, r) => r
  | _ => none

/-- The outputs of a cycle. `cmd_ready` is 0 while `rst` is asserted and in the cycle of the validation (R125). -/
def portOutputs (latency : Nat) (p : PortInputs) (s : State) : PortOutputs where
  cmdReady := !p.rst && s.cmdReady
  rspValid := (portResponse latency p s).isSome
  rspStatus := (portResponse latency p s).map fun r => r.status.code
  rspData := (portResponse latency p s).bind fun r => r.data
  fatal := s.fatalOut
  statusOut := s.statusOut

/-- A read of `rsp_status`: a fault of the reader where it holds no value (R17, U8). -/
def PortOutputs.readStatus (o : PortOutputs) : Host.Outcome (BitVec 2) Fault Refusal :=
  match o.rspStatus with
  | some v => .next v
  | none => .fault .noValueOnPort

/-- A read of `rsp_data`: a fault of the reader where it holds no value (R17, U8). -/
def PortOutputs.readData (o : PortOutputs) : Host.Outcome Block Fault Refusal :=
  match o.rspData with
  | some v => .next v
  | none => .fault .noValueOnPort

end Sys2Proof.Machine
end

