-- ==== Sys2Proof/Machine/Events.lean ====
section
/-! DEFINITION. The step of the core on a host event, over tables that it is given; and the same on the configured system. -/

namespace Sys2Proof.Machine

open Sys2Proof

/-- The step function of the core: LATENCY and TABLES are parameters, and its answer holds no tables, so it can change none
(R10, R13). `writeRom` is the platform's change of the parameter itself, on which the core takes no action (R22).
Releasing a reset that is not asserted changes nothing (log 20). -/
def coreStep (latency : Nat) (t : Tables) (e : HostEvent) (c : CoreState) : CoreResult :=
  match e with
  | .command w => coreWord t w c
  | .call i => coreExec t i c
  | .assertReset => .next (c.holdReset, none)
  | .writeRom _ => .next (c, none)
  | .releaseReset => .next (if c.inReset then c.releaseReset t else c, none)
  | .clock p => coreClock latency t p c

/-- One host event on the configured system: a command runs by exec, the platform may replace the ROM, and any other event
is the core's step over the ROM. A command too is the core's step over the ROM, which StepTakesTablesAsAParameter says. -/
def runEvent (e : HostEvent) (s : State) : Result :=
  match e with
  | .command w => runWord w s
  | .call i => exec i s
  | .writeRom t => s.writeRom t
  | .assertReset => s.absorb (coreStep Config.latency s.rom .assertReset s.toCoreState)
  | .releaseReset => s.absorb (coreStep Config.latency s.rom .releaseReset s.toCoreState)
  | .clock p => s.absorb (coreStep Config.latency s.rom (.clock p) s.toCoreState)

/-- The oldest host event, taken from the inputs. With nothing presented the core is idle (R123, log 3). -/
def takeEvent (s : State) : Result :=
  match s.inputs with
  | [] => .next s
  | e :: rest => runEvent e (s.setInputs rest)

/-- The same state with a word presented as the next command. -/
def State.present (s : State) (w : Bits) : State := s.setInputs (.command w :: s.inputs)

end Sys2Proof.Machine
end

