-- ==== Sys2Proof/Machine/Step.lean ====
section
/-! DEFINITION. One step: the next thing the host does (R10), a whole operation at the transaction level. -/

namespace Sys2Proof.Machine

open Sys2Proof

def step (s : State) : Host.Outcome State Fault Refusal := takeEvent s

/-- A word of the opcode table presented as the very next command. The core fetches nothing (R12): a program is the host's
list of commands, presented from outside (log 3). -/
def State.withFetchWord (s : State) (nbits w : Nat) : State := s.present (tableWord nbits w)

end Sys2Proof.Machine
end

