-- ==== Sys2Proof/Machine/Instances.lean ====
section
/-! DEFINITION. Several instances of the core (R19, R28, R124): independent states, one of which takes the next step. -/

namespace Sys2Proof.Machine

open Sys2Proof

/-- Instances that have come out of reset over the same ROM (R19, log 16): each holds its own copy of that parameter (log 23). -/
def instancesAfterReset (n : Nat) (t : Tables) : List State := List.replicate n (State.afterReset t)

/-- Instance `k` takes one step; with no such instance nothing happens. DESIGN CHOICE (log 23): the spec does not say whether
a ROM change that the platform makes while instance `k` is in reset reaches the other instances that read the same
tables. Here it changes the `rom` of instance `k` alone, so instances that began over the same tables may come to
differ in them. -/
def stepInstance (k : Nat) (cores : List State) : Host.Outcome (List State) Fault Refusal :=
  match cores[k]? with
  | none => .next cores
  | some s =>
    match step s with
    | .next s' => .next (cores.set k s')
    | .fault r => .fault r
    | .refused r => .refused r

/-- Instance `j` takes a step and then instance `k` does. -/
def stepTwo (j k : Nat) (cores : List State) : Host.Outcome (List State) Fault Refusal :=
  match stepInstance j cores with
  | .next cores' => stepInstance k cores'
  | .fault r => .fault r
  | .refused r => .refused r

end Sys2Proof.Machine
end

