-- ==== Sys2Proof/Machine/Listing.lean ====
section
/-! DEFINITION. The textual syntax of a listing (R38): `ENC 0x<16 hex digits>, 0x<16 hex digits>`, one command a line, run top to
bottom; no labels, no branches, no pseudo-instructions. Text is a list of characters. -/

namespace Sys2Proof.Machine

open Sys2Proof

/-- A hexadecimal digit. -/
def hexChar (d : BitVec 4) : Char :=
  if d.toNat < 10 then Char.ofNat (48 + d.toNat) else Char.ofNat (55 + d.toNat)

/-- The value of a hexadecimal digit, of either letter case (log 21). -/
def hexValue (c : Char) : Option (BitVec 4) :=
  if 48 ≤ c.toNat && c.toNat ≤ 57 then some (BitVec.ofNat 4 (c.toNat - 48))
  else if 65 ≤ c.toNat && c.toNat ≤ 70 then some (BitVec.ofNat 4 (c.toNat - 55))
  else if 97 ≤ c.toNat && c.toNat ≤ 102 then some (BitVec.ofNat 4 (c.toNat - 87))
  else none

/-- An operand in full width: `0x` and 16 digits, the most significant first (R8, R38). -/
def renderOperand (v : Block) : List Char :=
  '0' :: 'x' :: (List.range 16).map fun k => hexChar (slice v (60 - 4 * k) 4)

/-- `n` hexadecimal digits read after the digits of `acc`, and the text that follows. -/
def readDigits : Nat → Block → List Char → Option (Block × List Char)
  | 0, acc, text => some (acc, text)
  | _ + 1, _, [] => none
  | n + 1, acc, c :: text =>
    match hexValue c with
    | some d => readDigits n (acc <<< 4 ||| d.setWidth 64) text
    | none => none

/-- An operand: `0x` and exactly 16 digits. -/
def readOperand (text : List Char) : Option (Block × List Char) :=
  match text with
  | '0' :: 'x' :: digits => readDigits 16 0 digits
  | _ => none

def skipBlanks (text : List Char) : List Char := text.dropWhile fun c => c == ' '

/-- The line of a well-formed instruction (R38); none where an operand is not 64 bits. -/
def renderLine (i : Instr) : Option (List Char) :=
  match operands64 i.block i.key with
  | some (b, k) => some ((match i with | .enc _ _ => ['E', 'N', 'C'] | .dec _ _ => ['D', 'E', 'C'])
      ++ ' ' :: renderOperand b ++ ',' :: ' ' :: renderOperand k)
  | none => none

/-- The operands of a line, after its mnemonic: a blank, the block, a comma, the key, and nothing more but blanks. DESIGN
CHOICE (log 21): R38 annotates its syntax with `; …` and writes results after `->`, and does not say whether either may
stand on a line that is read; a line with either is no command here. -/
def readOperands (build : Bits → Bits → Instr) (text : List Char) : Option Instr :=
  match text with
  | ' ' :: rest =>
    match readOperand (skipBlanks rest) with
    | some (b, ',' :: rest') =>
      match readOperand (skipBlanks rest') with
      | some (k, rest'') => if (skipBlanks rest'').isEmpty then some (build (Bits.of b) (Bits.of k)) else none
      | none => none
    | _ => none
  | _ => none

/-- One line of a listing. -/
def readLine (text : List Char) : Option Instr :=
  match skipBlanks text with
  | 'E' :: 'N' :: 'C' :: rest => readOperands .enc rest
  | 'D' :: 'E' :: 'C' :: rest => readOperands .dec rest
  | _ => none

/-- The lines of a listing, top to bottom: the host's calls in that order (R38). None if some line is no command. -/
def readListing : List (List Char) → Option (List HostEvent)
  | [] => some []
  | line :: rest =>
    match readLine line, readListing rest with
    | some i, some es => some (.call i :: es)
    | _, _ => none

/-- The state with a listing presented to it. -/
def State.load (s : State) (es : List HostEvent) : State := s.setInputs (s.inputs ++ es)

end Sys2Proof.Machine
end

