-- ==== Sys2Proof/Safety.lean ====
section
/-! DEFINITION. The terms that claims use: the launch premises (R127), the invariant, the answer to a command, the end of a run. -/

namespace Sys2Proof.Machine

open Sys2Proof

/-- Launch premises P1 and P2 (R127): FATAL = 0, out of reset, no operation in progress; and RANGE_OK of the ROM, which is
what FATAL = 0 means in a state that meets the invariant. -/
structure State.Ready (s : State) : Prop where
  notFatal   : s.fatal = false
  notInReset : s.inReset = false
  notBusy    : s.inFlight = none
  tables     : rangeOk s.rom = true

/-- The invariant of the machine: out of reset, the latch says whether the ROM fails RANGE_OK (R16); an operation is in
progress only out of reset, with FATAL = 0, and is due within LATENCY cycles (R39, R134). -/
structure State.Inv (s : State) : Prop where
  latch    : s.inReset = false → s.fatal = !rangeOk s.rom
  inFlight : ∀ o, s.inFlight = some o → s.inReset = false ∧ s.fatal = false ∧ o.remaining < Config.latency

/-- What a well-formed or ill-formed instruction is answered with over checked tables (R81, R82, R111). -/
def answer (t : CheckedTables) (i : Instr) : Response :=
  match operands64 i.block i.key with
  | none => .invalidInputWidth
  | some (b, k) =>
    match i with
    | .enc _ _ => .ok (encrypt t b k)
    | .dec _ _ => .ok (decrypt t b k)

/-- The end of a run (R135): nothing more is presented and every accepted command has received its response. A state with
FATAL = 1 is never the end of a run. DESIGN CHOICE (log 22): R135 says nothing of a run that contains a reset. Here a core
held in reset is not at the end of a run, and a command that a reset abandoned is not waited for, since R128 counts it as
not executed. -/
structure State.Ended (s : State) : Prop where
  nothingPresented  : s.inputs = []
  nothingInProgress : s.inFlight = none
  notFatal          : s.fatal = false
  outOfReset        : s.inReset = false

end Sys2Proof.Machine
end

