-- ==== Sys2Proof/Certificates/Slice0/Obligations.lean ====
section
/-! DEFINITION. The statements for the provers. A docstring's rule is the numbered rule of spec/ it formalises; where it
names a log entry or the spec's own inference, the statement is derived and rests on that. -/

open Sys2Proof Sys2Proof.Machine

/-! Reset, the latch and the table ROM -/

/-- R125: held in reset the core accepts nothing, so no command has a next state; the release sets FATAL from RANGE_OK, leaves no operation in progress and no
response present, and `cmd_ready` is 1 exactly when FATAL = 0; and the initial state is the same function of TABLES. -/
def Obligations.ReleaseOfResetValidatesTables : Prop :=
  (∀ (s : State) (i : Instr), s.inReset = true → s.cmdReady = false ∧ ∀ s', exec i s ≠ .next s') ∧
  (∀ s : State, s.releaseReset.fatal = !rangeOk s.rom ∧ s.releaseReset.inFlight = none ∧ s.releaseReset.inReset = false ∧
    s.releaseReset.cmdReady = !s.releaseReset.fatal ∧
    ∀ L, (portOutputs L PortInputs.idle s.releaseReset).rspValid = false) ∧
  (∀ t : Tables, (State.afterReset t).fatal = !rangeOk t ∧ (State.afterReset t).inFlight = none ∧
    (State.afterReset t).cmdReady = !(State.afterReset t).fatal)

/-- The model's inference of log 6: a command presented while `rst` is asserted, which the core does not accept
(70_reset_and_hazards.md section 1), stops with the fault heldInReset, also where FATAL = 1: reset is named first
(60_exceptions.md section 3). -/
def Obligations.CommandInResetIsAFaultNamedFirst : Prop :=
  ∀ (s : State) (i : Instr), s.inReset = true → exec i s = .fault .heldInReset

/-- The model's choice of the reset ROM (log 1, the spec's default instance): out of reset the machine is ready and meets the
invariant. -/
def Obligations.ResetStateIsReadyAndMeetsInvariant : Prop := State.reset.Ready ∧ State.reset.Inv

/-- The invariant of the model: the latch tells RANGE_OK of the ROM, and an operation in progress is due within LATENCY
cycles. Every step keeps it, from every state that meets it. -/
def Obligations.StepKeepsLatchAndInFlightInvariant : Prop :=
  ∀ s s' : State, s.Inv → step s = .next s' → s'.Inv

/-- R16: at the release of reset FATAL is RANGE_OK's answer, at any other time it keeps its value; it is what the `fatal`
output shows, and while it is 1 no command is accepted. -/
def Obligations.FatalChangesOnlyAtRelease : Prop :=
  (∀ s s' : State, step s = .next s' →
    (s.inReset = true ∧ s'.inReset = false → s'.fatal = !rangeOk s'.rom) ∧
    (¬(s.inReset = true ∧ s'.inReset = false) → s'.fatal = s.fatal)) ∧
  (∀ (i : Instr) (s s' : State), exec i s = .next s' → s'.fatal = s.fatal) ∧
  (∀ s : State, s.fatalOut = s.fatal) ∧
  (∀ s : State, s.fatal = true → s.cmdReady = false ∧ ∀ (i : Instr) (s' : State), exec i s ≠ .next s')

/-- R22: no command writes the ROM; out of reset no step changes it and a change is refused; in reset a platform may change
it, and the release re-runs the validation. -/
def Obligations.RomChangesOnlyInReset : Prop :=
  (∀ (i : Instr) (s s' : State), exec i s = .next s' → s'.rom = s.rom) ∧
  (∀ s s' : State, s.inReset = false → step s = .next s' → s'.rom = s.rom) ∧
  (∀ (t : Tables) (s : State), s.inReset = false → runEvent (.writeRom t) s = .refused .romChangeOutsideReset) ∧
  (∀ (t : Tables) (s : State), s.inReset = true →
    ∃ s', runEvent (.writeRom t) s = .next s' ∧ s'.rom = t ∧ s'.releaseReset.fatal = !rangeOk t)

/-- Program P4, steps 3 and 5, for every ROM: three host events put any core, stuck or not, over new tables. The event list
is the model's (log 3). -/
def Obligations.ResetOverNewTablesRecoversAnyState : Prop :=
  ∀ (s : State) (t : Tables) (rest : List HostEvent),
    s.inputs = [.assertReset, .writeRom t, .releaseReset] ++ rest →
    Host.Core.run Sys2Proof.core 3 s =
      .next { s with fatal := !rangeOk t, inReset := false, inFlight := none, rom := t, inputs := rest }

/-- R43: RANGE_OK is the range of every entry of the six permutation tables, and of nothing else; if it is false the core
sets FATAL. -/
def Obligations.RangeOkIsEveryEntryInRange : Prop :=
  (∀ t : Tables, (State.afterReset t).fatal = true ↔ rangeOk t = false) ∧
  ∀ t : Tables, rangeOk t = true ↔
    (∀ i : Fin 64, 1 ≤ t.ip[i] ∧ t.ip[i] ≤ 64) ∧ (∀ i : Fin 64, 1 ≤ t.fp[i] ∧ t.fp[i] ≤ 64) ∧
    (∀ i : Fin 48, 1 ≤ t.e[i] ∧ t.e[i] ≤ 32) ∧ (∀ i : Fin 32, 1 ≤ t.p[i] ∧ t.p[i] ≤ 32) ∧
    (∀ i : Fin 56, 1 ≤ t.pc1[i] ∧ t.pc1[i] ≤ 64) ∧ (∀ i : Fin 48, 1 ≤ t.pc2[i] ∧ t.pc2[i] ≤ 56)

/-- The formula of STRUCT_OK, clause by clause; the spec also says the core does not check it, which is why no other
statement but the round trips has it as a premise. -/
def Obligations.StructOkIsItsClauses : Prop :=
  ∀ t : Tables, structOk t = true ↔
    (∀ v, 1 ≤ v → v ≤ 64 → ∃! i : Fin 64, t.ip[i] = v) ∧
    (∀ v, 1 ≤ v → v ≤ 64 → ∃! i : Fin 64, t.fp[i] = v) ∧
    (∀ j : Fin 64, t.ip[t.fp[j] - 1]? = some (j.val + 1)) ∧
    (∀ v, 1 ≤ v → v ≤ 32 → ∃! i : Fin 32, t.p[i] = v) ∧
    ((Finset.Icc 1 32).filter fun v => (Finset.univ.filter fun i : Fin 48 => t.e[i] = v).card = 2).card = 16 ∧
    ((Finset.Icc 1 32).filter fun v => (Finset.univ.filter fun i : Fin 48 => t.e[i] = v).card = 1).card = 16

/-- The spec's inference R107: the default instance, and TABLES_REV (R109), pass RANGE_OK and STRUCT_OK. -/
def Obligations.SpecTableInstancesPassBothChecks : Prop :=
  (rangeOk tablesFips && structOk tablesFips && rangeOk tablesRev && structOk tablesRev) = true

/-! Formats -/

/-- R32, R34, R35: `op ‖ block ‖ key` is the command ENC for op = 0 and DEC for op = 1, on the operands taken verbatim, and
its word matches exactly one row of the operation table. -/
def Obligations.CommandWordIsOpBlockKey : Prop :=
  ∀ (op : BitVec 1) (block : Block) (key : Key),
    decode (Bits.of (op ++ block ++ key : CmdWord)) =
      .ok (if op = 0 then .enc (Bits.of block) (Bits.of key) else .dec (Bits.of block) (Bits.of key)) ∧
    (opRows.filter fun r => r.hits (op ++ block ++ key)).length = 1

/-- Decode and encode agree on every well-formed instruction, at every value of its operands. -/
def Obligations.DecodeOfEncodeIsTheInstruction : Prop :=
  ∀ i : Instr, i.wellFormed = true → ∃ w, encode i = some w ∧ decode (Bits.of w) = .ok i

/-- The spec's inference R36: every 129-bit word is a legal command; and it is the word of that command. -/
def Obligations.EncodeOfDecodeIsTheWord : Prop :=
  ∀ w : CmdWord, ∃ i, decode (Bits.of w) = .ok i ∧ i.wellFormed = true ∧ encode i = some w

/-- The spec's inference R37 and log 14: a word of any other length is rejected by name, and a step refuses it; a word of the
opcode table with a bit set above bit 128 is such a word. -/
def Obligations.OtherLengthsAreRejectedByName : Prop :=
  (∀ (w : Bits) (s : State), w.width ≠ 129 →
    decode w = .error (.wrongLength w.width) ∧
    step (s.present w) = .refused (.undecodable (.wrongLength w.width))) ∧
  (∀ nbits w : Nat, 2 ^ 129 ≤ w % 2 ^ nbits → decodeTableWord nbits w = none)

/-- R33: status in bits [65:64], data in bits [63:0]; an error response has no data; statuses 2 and 3 are in no response; and
on the fixed-width ports every response has status 0. -/
def Obligations.ResponseWordIsStatusAndData : Prop :=
  (∀ d : Block, ∃ w, (Response.ok d).word = some w ∧ slice w 64 2 = 0 ∧ slice w 0 64 = d ∧ decodeRsp w = some (.ok d)) ∧
  (Response.invalidInputWidth.data = none ∧ Response.invalidInputWidth.status.code = 1 ∧
    Status.code .invalidTable = 2) ∧
  (∀ w : RspWord, decodeRsp w = none ↔ slice w 64 2 = 2 ∨ slice w 64 2 = 3) ∧
  (∀ (L : Nat) (p : PortInputs) (s : State) (r : Response), portResponse L p s = some r → r.status.code = 0)

/-- The model's inference of log 19: since the data field of an error response holds no value, its 66-bit word is none too,
and only that of an error response is. -/
def Obligations.ErrorResponseHasNoWord : Prop :=
  ∀ r : Response, r.word = none ↔ r.status ≠ .ok

/-- The two command words of program P1, as 95_test_vectors.md lists its commands; and the least and the greatest word, which
the spec does not list and which follow from the format (30_encoding.md section 2) and its inference R36. -/
def Obligations.PublishedWordsDecode : Prop :=
  decodeTableWord 136 0x00123456789ABCDEF133457799BBCDFF1 =
    some (.enc (Bits.of (0x0123456789ABCDEF : Block)) (Bits.of (0x133457799BBCDFF1 : Key))) ∧
  decodeTableWord 136 0x185E813540F0AB405133457799BBCDFF1 =
    some (.dec (Bits.of (0x85E813540F0AB405 : Block)) (Bits.of (0x133457799BBCDFF1 : Key))) ∧
  decodeTableWord 136 0 = some (.enc (Bits.of (0 : Block)) (Bits.of (0 : Key))) ∧
  decodeTableWord 136 (2 ^ 129 - 1) = some (.dec (Bits.of (ones 64)) (Bits.of (ones 64)))

/-- The spec's own convention D12 (20_memory.md section 2): a 64-bit value is moved as 8 bytes, the most significant first. -/
def Obligations.BlockBytesAreBigEndian : Prop :=
  ∀ v : Block, byteStringOperand (blockBytes v) = Bits.of v ∧
    ∀ k : Fin 8, (blockBytes v)[k.val]? = some (slice v (56 - 8 * k.val) 8)

/-- The spec's own listing syntax D20 (30_encoding.md section 5) and log 21: the line of a command reads back as the command. -/
def Obligations.ListingLineReadsBack : Prop :=
  ∀ i : Instr, i.wellFormed = true → ∃ line, renderLine i = some line ∧ readLine line = some i

/-! The step -/

/-- A step runs the decoded instruction: a presented command word, a word placed by withFetchWord, or a front-end's call. Any
other event runs as itself, and with nothing presented an idle core stays as it is (log 3). -/
def Obligations.StepRunsThePresentedCommand : Prop :=
  (∀ (s : State) (w : Bits) (i : Instr) (rest : List HostEvent), s.inputs = .command w :: rest → decode w = .ok i →
    step s = exec i (s.setInputs rest)) ∧
  (∀ (s : State) (nbits w : Nat) (i : Instr), decodeTableWord nbits w = some i →
    step (s.withFetchWord nbits w) = exec i s) ∧
  (∀ (s : State) (i : Instr) (rest : List HostEvent), s.inputs = .call i :: rest → step s = exec i (s.setInputs rest)) ∧
  (∀ (s : State) (e : HostEvent) (rest : List HostEvent), s.inputs = e :: rest → step s = runEvent e (s.setInputs rest)) ∧
  (∀ s : State, s.inputs = [] → step s = .next s)

/-- The tables are a parameter of the core's step (10_state.md section 2, log 2): the machine's step is the step of the core
over the ROM, on the core's own state, for every event but the platform's change of that parameter; ENC and DEC are such
steps, for every LATENCY; and no answer of such a step, whatever it is, changes the ROM. -/
def Obligations.StepTakesTablesAsAParameter : Prop :=
  (∀ (s : State) (e : HostEvent) (rest : List HostEvent), s.inputs = e :: rest → (∀ t, e ≠ .writeRom t) →
    step s = (s.setInputs rest).absorb (coreStep Config.latency s.rom e s.toCoreState)) ∧
  (∀ (L : Nat) (i : Instr) (s : State), exec i s = s.absorb (coreStep L s.rom (.call i) s.toCoreState)) ∧
  (∀ (s s' : State) (r : CoreResult), s.absorb r = .next s' → s'.rom = s.rom)

/-- From a ready core every list of commands, of any operand widths, is answered one for one and in order (20_memory.md
section 5, 70_reset_and_hazards.md section 5), and nothing else of the core changes. -/
def Obligations.CommandsAreAnsweredInOrder : Prop :=
  ∀ (s : State) (h : s.Ready) (is : List Instr) (rest : List HostEvent), s.inputs = is.map .call ++ rest →
    Host.Core.run Sys2Proof.core is.length s =
      .next { s with
        inputs := rest
        responses := s.responses ++ is.map (answer (checkedTables s.rom h.tables)) }

/-- From a ready core every run of commands ends (70_reset_and_hazards.md sections 4 and 5): as many steps as commands, one
response for each, and the end of the run, as log 22 completes the spec's definition; no run ends with FATAL = 1. -/
def Obligations.EveryRunOfCommandsEnds : Prop :=
  (∀ (s : State) (is : List Instr), s.Ready → s.inputs = is.map .call →
    ∃ s' : State, Host.Core.run Sys2Proof.core is.length s = .next s' ∧ s'.Ended ∧
      s'.responses.length = s.responses.length + is.length) ∧
  (∀ s : State, s.fatal = true → ¬s.Ended)

/-- R92: the answer is a function of the operation, the block, the key and the tables alone: two ready cores over the same
tables, whatever they did before, give a command the same response. -/
def Obligations.AnswerDependsOnCommandAndTablesOnly : Prop :=
  ∀ (i : Instr) (s s' : State), s.Ready → s'.Ready → s.rom = s'.rom →
    ∃ r, exec i s = .next (s.respond r) ∧ exec i s' = .next (s'.respond r)

/-- Several instances (20_memory.md section 5): a step of one changes no other, which for the platform's change of its ROM is
the model's choice (log 23); the order of two instances' steps does not matter; and instances over the same tables come
out of reset with the same FATAL. -/
def Obligations.InstancesAreIndependent : Prop :=
  (∀ (k j : Nat) (cores cores' : List State), j ≠ k → stepInstance k cores = .next cores' → cores'[j]? = cores[j]?) ∧
  (∀ (j k : Nat) (cores cores' : List State), j ≠ k → stepTwo j k cores = .next cores' → stepTwo k j cores = .next cores') ∧
  (∀ (n : Nat) (t : Tables) (s : State), s ∈ instancesAfterReset n t → s.fatal = !rangeOk t)

/-! ENC and DEC -/

/-- R81: with FATAL = 1 no step; with an operand of another width than 64 the response InvalidInputWidth; otherwise the
response (0, crypt with the keys in order). -/
def Obligations.EncRespondsWithCryptInOrder : Prop :=
  ∀ (s : State) (block key : Bits),
    (s.inReset = false → s.fatal = true → exec (.enc block key) s = .fault .invalidTable) ∧
    (s.Ready → block.width ≠ 64 ∨ key.width ≠ 64 → exec (.enc block key) s = .next (s.respond .invalidInputWidth)) ∧
    (∀ (h : s.Ready) (b : Block) (k : Key), block = Bits.of b → key = Bits.of k →
      exec (.enc block key) s = .next (s.respond (.ok (crypt (checkedTables s.rom h.tables) b k
        #v[0, 1, 2, 3, 4, 5, 6, 7, 8, 9, 10, 11, 12, 13, 14, 15]))))

/-- R82: as R81, with the keys in the reverse order. -/
def Obligations.DecRespondsWithCryptReversed : Prop :=
  ∀ (s : State) (block key : Bits),
    (s.inReset = false → s.fatal = true → exec (.dec block key) s = .fault .invalidTable) ∧
    (s.Ready → block.width ≠ 64 ∨ key.width ≠ 64 → exec (.dec block key) s = .next (s.respond .invalidInputWidth)) ∧
    (∀ (h : s.Ready) (b : Block) (k : Key), block = Bits.of b → key = Bits.of k →
      exec (.dec block key) s = .next (s.respond (.ok (crypt (checkedTables s.rom h.tables) b k
        #v[15, 14, 13, 12, 11, 10, 9, 8, 7, 6, 5, 4, 3, 2, 1, 0]))))

/-- The frame of ENC and DEC, of every form: FATAL, the reset and port state, the pending inputs and every element of the
table ROM are unchanged; exactly one response is added. -/
def Obligations.ExecAddsOneResponseAndNothingElse : Prop :=
  ∀ (i : Instr) (s s' : State), exec i s = .next s' →
    s'.fatal = s.fatal ∧ s'.inReset = s.inReset ∧ s'.inFlight = s.inFlight ∧ s'.inputs = s.inputs ∧ s'.rom = s.rom ∧
    (∀ a : RomAddr, tableRead s'.rom a = tableRead s.rom a) ∧
    ∃ r, s'.responses = s.responses ++ [r] ∧ (r = .invalidInputWidth ↔ i.wellFormed = false)

/-- In a state that meets the invariant, ENC and DEC complete exactly when `cmd_ready` is 1, whatever the operands, and are
never refused (60_exceptions.md section 1, 70_reset_and_hazards.md sections 1, 3 and 4). A stop is a fault, and which one
it is, the first of heldInReset, invalidTable and busy that holds, is the model's inference (log 5, log 6). -/
def Obligations.ExecCompletesExactlyWhenReady : Prop :=
  ∀ (i : Instr) (s : State), s.Inv →
    ((∃ s', exec i s = .next s') ↔ s.cmdReady = true) ∧ (∀ r, exec i s ≠ .refused r) ∧
    (∀ r, exec i s = .fault r ↔ s.blocked = some r)

/-- R111: an operand that is not exactly 64 bits is answered with status 1 and no data, nothing is computed and nothing else
happens; for natural numbers, not exactly 64 bits means at least 2^64, and a smaller one is presented as itself. -/
def Obligations.BadWidthIsAnsweredWithStatusOne : Prop :=
  (∀ (i : Instr) (s : State), s.cmdReady = true → i.wellFormed = false →
    exec i s = .next { s with responses := s.responses ++ [.invalidInputWidth] }) ∧
  Response.invalidInputWidth.status.code = 1 ∧ Response.invalidInputWidth.data = none ∧
  (∀ n : Nat, ((naturalOperand n).is64 = true ↔ n < 2 ^ 64) ∧ (naturalOperand n).value.toNat = n)

/-- R112: tables that fail RANGE_OK set FATAL at reset; while FATAL = 1 no command has a step, the ports accept nothing and
give no response, and show `fatal` = 1 and `status_out` = 2; only a reset over good tables clears it. -/
def Obligations.InvalidTableIsFatalAndSilent : Prop :=
  (∀ t : Tables, rangeOk t = false → (State.afterReset t).fatal = true) ∧
  (∀ s : State, s.releaseReset.fatal = false ↔ rangeOk s.rom = true) ∧
  (∀ s : State, s.Inv → s.inReset = false → s.fatal = true →
    (∀ i : Instr, exec i s = .fault .invalidTable) ∧
    ∀ (L : Nat) (p : PortInputs), portOutputs L p s = ⟨false, false, none, none, true, 2⟩ ∧
      (p.rst = false → clockEdge L p s = .next s))

/-! BitPermutationEngine -/

/-- R40: output position i is input position T[i] - 1, both counted from the most significant bit; and the same in LSB-0
slices. -/
def Obligations.PermuteCopiesTheNamedBits : Prop :=
  ∀ (N M : Nat) (x : BitVec N) (t : PermTable N M) (i : Nat) (h : i < M),
    mbit (permute x t) i = mbit x (t.entries[i] - 1) ∧
    (permute x t).getLsbD (M - 1 - i) = x.getLsbD (N - t.entries[i])

/-- The spec's inference R46: `permute` is linear over XOR. -/
def Obligations.PermuteIsLinearOverXor : Prop :=
  ∀ (N M : Nat) (x y : BitVec N) (t : PermTable N M), permute (x ^^^ y) t = permute x t ^^^ permute y t

/-- The spec's inference R47: constants and complement. -/
def Obligations.PermuteKeepsConstantsAndComplement : Prop :=
  ∀ (N M : Nat) (x : BitVec N) (t : PermTable N M),
    permute 0 t = 0 ∧ permute (ones N) t = ones M ∧ permute (~~~x) t = ~~~permute x t

/-- The spec's inference R48, first part: two permutations in a row are the permutation of the composed table. -/
def Obligations.PermutationsCompose : Prop :=
  ∀ (N M K : Nat) (x : BitVec N) (t : PermTable N M) (u : PermTable M K) (v : PermTable N K),
    (∀ (i : Nat) (h : i < K), t.entries[u.entries[i] - 1]? = some v.entries[i]) →
    permute (permute x t) u = permute x v

/-- The spec's inference R48, second part: under the IP/FP clauses of STRUCT_OK, FP undoes IP and IP undoes FP. -/
def Obligations.FpAndIpUndoEachOther : Prop :=
  ∀ (t : Tables) (h : rangeOk t = true) (x : Block), ipFpOk t = true →
    permute (permute x (checkedTables t h).ip) (checkedTables t h).fp = x ∧
    permute (permute x (checkedTables t h).fp) (checkedTables t h).ip = x

/-! KeySchedule -/

/-- R55: the masked shift-and-wrap is the 28-bit circular left rotation, for both amounts the schedule uses. -/
def Obligations.Rotl28IsCircularLeftRotation : Prop :=
  ∀ v : KeyHalf,
    rotl28 v 1 = slice v 0 27 ++ slice v 27 1 ∧ rotl28 v 2 = slice v 0 26 ++ slice v 26 2 ∧
    rotl28 v 2 = rotl28 (rotl28 v 1) 1 ∧
    ∀ s, s = 1 ∨ s = 2 → (rotl28 v s).toNat = ((v.toNat <<< s) ||| (v.toNat >>> (28 - s))) % 2 ^ 28

/-- R52, R53, R54, R56, R57, R58: PC1 and the split; in each of the sixteen rounds C and D are rotated by 1 in rounds 0, 1, 8
and 15 and by 2 otherwise, carried forward, and only then give the round key through PC2. -/
def Obligations.GenerateFollowsTheSchedule : Prop :=
  ∀ (t : CheckedTables) (key : Key), ∃ c d : Nat → KeyHalf,
    c 0 = slice (permute key t.pc1) 28 28 ∧ d 0 = slice (permute key t.pc1) 0 28 ∧
    ∀ (i : Nat) (h : i < 16),
      c (i + 1) = rotl28 (c i) (if i = 0 ∨ i = 1 ∨ i = 8 ∨ i = 15 then 1 else 2) ∧
      d (i + 1) = rotl28 (d i) (if i = 0 ∨ i = 1 ∨ i = 8 ∨ i = 15 then 1 else 2) ∧
      (generate t key)[i] = permute (c (i + 1) ++ d (i + 1) : PermutedKey) t.pc2

/-- The spec's inference R62: round key i comes from the halves of PC1 rotated A[i] single steps, A = 1, 2, 4, ..., 28; after
round 15 the halves are back where they were. -/
def Obligations.RoundKeyIsCumulativeRotation : Prop :=
  ∀ (t : CheckedTables) (key : Key),
    (∀ i : Fin 16, (generate t key)[i] =
      permute ((fun v => rotl28 v 1)^[[1, 2, 4, 6, 8, 10, 12, 14, 15, 17, 19, 21, 23, 25, 27, 28][i]]
          (slice (permute key t.pc1) 28 28) ++
        (fun v => rotl28 v 1)^[[1, 2, 4, 6, 8, 10, 12, 14, 15, 17, 19, 21, 23, 25, 27, 28][i]]
          (slice (permute key t.pc1) 0 28) : PermutedKey) t.pc2) ∧
    (generate t key)[15] = permute (permute key t.pc1) t.pc2

/-- The spec's inference R63: at least 8 key positions are named by no PC1 entry, and keys that agree in the named positions
give the same round keys and the same results for every block. -/
def Obligations.UnnamedKeyBitsHaveNoEffect : Prop :=
  (∀ t : CheckedTables,
    8 ≤ ((Finset.range 64).filter fun p => ∀ i : Fin 56, t.pc1.entries[i] - 1 ≠ p).card) ∧
  ∀ (t : CheckedTables) (k k' : Key),
    (∀ i : Fin 56, mbit k (t.pc1.entries[i] - 1) = mbit k' (t.pc1.entries[i] - 1)) →
    generate t k = generate t k' ∧ ∀ b, encrypt t b k = encrypt t b k' ∧ decrypt t b k = decrypt t b k'

/-- The spec's inference R64: uniform keys and uniform halves give equal round keys, and complementing the key complements
every round key. -/
def Obligations.UniformAndComplementedKeys : Prop :=
  ∀ (t : CheckedTables) (key : Key) (i : Fin 16),
    (generate t 0)[i] = 0 ∧ (generate t (ones 64))[i] = ones 48 ∧
    (generate t (~~~key))[i] = ~~~(generate t key)[i] ∧
    (slice (permute key t.pc1) 28 28 = 0 ∨ slice (permute key t.pc1) 28 28 = ones 28 →
      slice (permute key t.pc1) 0 28 = 0 ∨ slice (permute key t.pc1) 0 28 = ones 28 →
      (generate t key)[i] = (generate t key)[0])

/-! FeistelRound -/

/-- R65 to R71: expand by E, XOR the round key, look each 6-bit group up in its own box at row (b0, b5) and column
(b1, b2, b3, b4), put the nibbles together group 0 first, permute by P. -/
def Obligations.FIsExpandMixSubstitutePermute : Prop :=
  ∀ (t : CheckedTables) (r : Half) (k : RoundKey), ∃ s : Half,
    (∀ (g : Fin 8) (v : BitVec 6) (row : Fin 4) (column : Fin 16),
      v.toNat = ((permute r t.e ^^^ k).toNat >>> (42 - 6 * g.val)) % 64 →
      row.val = 2 * (mbit v 0).toNat + (mbit v 5).toNat →
      column.val = 8 * (mbit v 1).toNat + 4 * (mbit v 2).toNat + 2 * (mbit v 3).toNat + (mbit v 4).toNat →
      slice s (28 - 4 * g.val) 4 = t.sbox[g][row][column]) ∧
    feistelF t r k = permute s t.p

/-- The spec's inference R74: complementing both inputs of F changes nothing. -/
def Obligations.FIsInvariantUnderComplement : Prop :=
  ∀ (t : CheckedTables) (r : Half) (k : RoundKey), feistelF t (~~~r) (~~~k) = feistelF t r k

/-- The spec's inference R73: the flat index of (row, column) is the group value itself. -/
def Obligations.FlatSboxIndexIsTheGroup : Prop :=
  ∀ v : BitVec 6, 32 * ((sboxRow v).toNat >>> 1) + 2 * (sboxColumn v).toNat + ((sboxRow v).toNat &&& 1) = v.toNat

/-! BlockCipherCore -/

/-- R80, R83 to R86: IP, the split, sixteen rounds that read the halves of before the round, R16 ‖ L16, FP. -/
def Obligations.CryptIsSixteenFeistelRounds : Prop :=
  ∀ (t : CheckedTables) (block : Block) (key : Key) (order : Vector (Fin 16) 16), ∃ l r : Nat → Half,
    l 0 = slice (permute block t.ip) 32 32 ∧ r 0 = slice (permute block t.ip) 0 32 ∧
    (∀ (n : Nat) (h : n < 16), l (n + 1) = r n ∧ r (n + 1) = l n ^^^ feistelF t (r n) (generate t key)[order[n]]) ∧
    crypt t block key order = permute (r 16 ++ l 16 : Block) t.fp

/-- R87: encryption consumes RoundKey[r] in round r and decryption RoundKey[15 - r]; nothing else differs. -/
def Obligations.DecryptionOnlyReversesTheKeyOrder : Prop :=
  ∀ (t : CheckedTables) (block : Block) (key : Key) (order : Vector (Fin 16) 16),
    ((∀ (r : Nat) (h : r < 16), order[r].val = r) → encrypt t block key = crypt t block key order) ∧
    ((∀ (r : Nat) (h : r < 16), order[r].val = 15 - r) → decrypt t block key = crypt t block key order)

/-- R91: the round trip, both ways, for every block and key, under the IP/FP clauses of STRUCT_OK and no other premise on the
tables than RANGE_OK. -/
def Obligations.DecryptUndoesEncrypt : Prop :=
  ∀ (t : Tables) (h : rangeOk t = true), ipFpOk t = true → ∀ (b : Block) (k : Key),
    decrypt (checkedTables t h) (encrypt (checkedTables t h) b k) k = b ∧
    encrypt (checkedTables t h) (decrypt (checkedTables t h) b k) k = b

/-- The round trip on the machine (program P1, for every block, key and conforming ROM): ENC then DEC of its result, and DEC
then ENC, each answers the block it began with. -/
def Obligations.MachineRoundTrip : Prop :=
  ∀ (s : State), s.Ready → ipFpOk s.rom = true → ∀ (b : Block) (k : Key),
    (∃ c, exec (.enc (Bits.of b) (Bits.of k)) s = .next (s.respond (.ok c)) ∧
      exec (.dec (Bits.of c) (Bits.of k)) (s.respond (.ok c)) = .next ((s.respond (.ok c)).respond (.ok b))) ∧
    (∃ c, exec (.dec (Bits.of b) (Bits.of k)) s = .next (s.respond (.ok c)) ∧
      exec (.enc (Bits.of c) (Bits.of k)) (s.respond (.ok c)) = .next ((s.respond (.ok c)).respond (.ok b)))

/-- The spec's inference R95: complementing block and key complements the result, for any tables. -/
def Obligations.CipherHasComplementation : Prop :=
  ∀ (t : CheckedTables) (b : Block) (k : Key),
    encrypt t (~~~b) (~~~k) = ~~~encrypt t b k ∧ decrypt t (~~~b) (~~~k) = ~~~decrypt t b k

/-- The spec's inference R96: under a key whose round keys are all equal, in particular 0 and ones(64), the two operations
are the same function, and with the round trip's premise ENC undoes itself. -/
def Obligations.EqualRoundKeysMakeEncSelfInverse : Prop :=
  ∀ (t : Tables) (h : rangeOk t = true) (b : Block),
    (∀ k : Key, (∀ i : Fin 16, (generate (checkedTables t h) k)[i] = (generate (checkedTables t h) k)[0]) →
      decrypt (checkedTables t h) b k = encrypt (checkedTables t h) b k ∧
      (ipFpOk t = true → encrypt (checkedTables t h) (encrypt (checkedTables t h) b k) k = b)) ∧
    decrypt (checkedTables t h) b 0 = encrypt (checkedTables t h) b 0 ∧
    decrypt (checkedTables t h) b (ones 64) = encrypt (checkedTables t h) b (ones 64)

/-! The signal-level binding -/

/-- 30_encoding.md section 6 (the spec's binding, R39): for every LATENCY, a command accepted by a ready core, followed by
LATENCY cycles without reset and with any other pins, leaves exactly what the transaction-level operation leaves. The
response joins the host's record in its cycle (log 10). -/
def Obligations.PortsRefineTheOperation : Prop :=
  ∀ (L : Nat) (s : State) (p : PortInputs) (later : List PortInputs), s.Ready → p.rst = false → p.cmdValid = true →
    later.length = L → (∀ q ∈ later, q.rst = false) →
    clockEdges L (p :: later) s = runWord (Bits.of p.word) s

/-- The same on the machine's own steps, for its LATENCY (log 7): the clock events of an acceptance and of LATENCY later
cycles, taken from the event list (log 3), leave what the operation leaves. -/
def Obligations.ClockStepsRefineTheOperation : Prop :=
  ∀ (s : State) (p : PortInputs) (later : List PortInputs) (rest : List HostEvent), s.Ready → p.rst = false →
    p.cmdValid = true → later.length = Config.latency → (∀ q ∈ later, q.rst = false) →
    s.inputs = (p :: later).map .clock ++ rest →
    Host.Core.run Sys2Proof.core (Config.latency + 1) s = runWord (Bits.of p.word) (s.setInputs rest)

/-- 30_encoding.md section 6: `cmd_ready` is 1 exactly when FATAL = 0 and no operation is in progress, the core being out of
reset (70_reset_and_hazards.md section 1, log 8). -/
def Obligations.CmdReadyExactlyWhenIdleAndGood : Prop :=
  ∀ (L : Nat) (p : PortInputs) (s : State),
    (portOutputs L p s).cmdReady = true ↔ p.rst = false ∧ s.inReset = false ∧ s.fatal = false ∧ s.inFlight = none

/-- 30_encoding.md section 6 and 70_reset_and_hazards.md section 3 (a): in a ready core a cycle that presents a command
accepts it; with LATENCY not 0 its word, as the pins show it then, is the operation in progress, due LATENCY cycles
later, and no response is present. A cycle that presents none changes nothing. -/
def Obligations.AcceptanceCycleSamplesTheCommand : Prop :=
  ∀ (L : Nat) (p : PortInputs) (s : State), s.Ready → p.rst = false →
    (p.cmdValid = true → L ≠ 0 → portOutputs L p s = ⟨true, false, none, none, false, 0⟩ ∧
      clockEdge L p s = .next { s with inFlight := some ⟨p.cmdOp ++ p.cmdBlock ++ p.cmdKey, L - 1⟩ }) ∧
    (p.cmdValid = false → portOutputs L p s = ⟨true, false, none, none, false, 0⟩ ∧ clockEdge L p s = .next s)

/-- 70_reset_and_hazards.md section 3 (b): what is presented while an operation is in progress has no effect; no response
comes while a cycle remains, and it comes when none remains, given FATAL = 0 over tables in RANGE_OK, which the invariant
says of every state with an operation in progress. -/
def Obligations.PinsWhileBusyAreIgnored : Prop :=
  ∀ (L : Nat) (p : PortInputs) (s : State) (o : InFlight), s.inFlight = some o → s.inReset = false → p.rst = false →
    clockEdge L p s = clockEdge L PortInputs.idle s ∧ portOutputs L p s = portOutputs L PortInputs.idle s ∧
    (portOutputs L p s).cmdReady = false ∧
    (o.remaining ≠ 0 → clockEdge L p s = .next { s with inFlight := some ⟨o.word, o.remaining - 1⟩ } ∧
      (portOutputs L p s).rspValid = false) ∧
    (o.remaining = 0 → s.fatal = false → rangeOk s.rom = true → (portOutputs L p s).rspValid = true)

/-- 30_encoding.md section 6: in the cycle of the response `rsp_valid` is 1, the status is 0 and the data is what the
operation responds with; no operation is in progress afterwards. With LATENCY = 0 that is the cycle of the acceptance,
in which `cmd_ready` is 1. -/
def Obligations.ResponseCycleShowsTheResult : Prop :=
  (∀ (L : Nat) (p : PortInputs) (s : State) (w : CmdWord), s.inFlight = some ⟨w, 0⟩ → s.inReset = false →
    s.fatal = false → rangeOk s.rom = true → p.rst = false →
    ∃ d, runWord (Bits.of w) (s.setInFlight none) = .next ((s.setInFlight none).respond (.ok d)) ∧
      portOutputs L p s = ⟨false, true, some 0, some d, false, 0⟩ ∧
      clockEdge L p s = .next ((s.setInFlight none).respond (.ok d))) ∧
  (∀ (p : PortInputs) (s : State), s.Ready → p.rst = false → p.cmdValid = true →
    ∃ d, runWord (Bits.of p.word) s = .next (s.respond (.ok d)) ∧
      portOutputs 0 p s = ⟨true, true, some 0, some d, false, 0⟩ ∧
      clockEdge 0 p s = .next (s.respond (.ok d)))

/-- R17: the response ports carry a value only while `rsp_valid` = 1, a read at any other time is a fault, and a response
whose status is not OK has no data. -/
def Obligations.ResponsePortsHoldNoOtherValue : Prop :=
  (∀ (L : Nat) (p : PortInputs) (s : State), (portOutputs L p s).rspValid = false →
    (portOutputs L p s).rspStatus = none ∧ (portOutputs L p s).rspData = none ∧
    (portOutputs L p s).readStatus = .fault .noValueOnPort ∧ (portOutputs L p s).readData = .fault .noValueOnPort) ∧
  (∀ r : Response, r.status ≠ .ok → r.data = none)

/-- R128: a reset asserted while an operation is in progress abandons it: no response in that cycle, none in the record,
nothing in progress afterwards that could still respond; and the release makes the core what R125 says, over the same
ROM. -/
def Obligations.ResetAbandonsTheOperation : Prop :=
  ∀ (L : Nat) (s : State) (o : InFlight) (p : PortInputs), s.inFlight = some o → p.rst = true →
    (portOutputs L p s).rspValid = false ∧
    ∃ t : State, clockEdge L p s = .next t ∧ t.responses = s.responses ∧ t.inFlight = none ∧ t.inReset = true ∧
      t.releaseReset = { s with fatal := !rangeOk s.rom, inReset := false, inFlight := none }

/-- The spec's inference R116: reset wins over an acceptance and over a response in the same cycle. For every LATENCY, every
state and whatever is presented, a cycle with `rst` high holds the core in reset, shows no response, accepts nothing and
adds nothing to the record. That `cmd_ready` is 0 in it is log 8; that the latch keeps its value, and that `fatal` and
`status_out` go on showing it (30_encoding.md section 6), is log 9, read from 10_state.md section 2. -/
def Obligations.ResetWinsOverAcceptanceAndResponse : Prop :=
  ∀ (L : Nat) (p : PortInputs) (s : State), p.rst = true →
    clockEdge L p s = .next { s with inReset := true, inFlight := none } ∧
    portOutputs L p s = ⟨false, false, none, none, s.fatal, if s.fatal then 2 else 0⟩

/-- A reset and its release restart a core over its ROM, whatever it was doing (70_reset_and_hazards.md section 1): in two
clock cycles, since the model's validation takes one (log 8), and in two events of the list (log 3). -/
def Obligations.ResetThenReleaseRestartsTheCore : Prop :=
  (∀ (L : Nat) (s : State) (p q : PortInputs), p.rst = true → q.rst = false →
    clockEdges L [p, q] s = .next { s with fatal := !rangeOk s.rom, inReset := false, inFlight := none }) ∧
  (∀ (s : State) (rest : List HostEvent), s.inputs = [.assertReset, .releaseReset] ++ rest →
    Host.Core.run Sys2Proof.core 2 s =
      .next { s with fatal := !rangeOk s.rom, inReset := false, inFlight := none, inputs := rest })
end

