-- ==== Sys2Proof/Laws/Permutation.lean ====
section
/-! SUPPORT. What `permute` yields, bit by bit (R40): every later fact about a permutation cites `permute_mbit`. -/

namespace Sys2Proof.Machine

open Sys2Proof

/-- Digits read after a number that is already there. -/
theorem msbFirst_foldl (bits : List Bool) (a : Nat) :
    bits.foldl (fun y b => 2 * y + b.toNat) a = a * 2 ^ bits.length + msbFirst bits := by
  induction bits generalizing a with
  | nil => simp [msbFirst]
  | cons b rest ih =>
    simp only [msbFirst, List.foldl_cons, List.length_cons, Nat.mul_zero, Nat.zero_add]
    rw [ih, ih (a := b.toNat)]
    ring

theorem msbFirst_cons (b : Bool) (rest : List Bool) :
    msbFirst (b :: rest) = b.toNat * 2 ^ rest.length + msbFirst rest := by
  rw [← msbFirst_foldl]
  simp [msbFirst]

theorem msbFirst_lt (bits : List Bool) : msbFirst bits < 2 ^ bits.length := by
  induction bits with
  | nil => simp [msbFirst]
  | cons b rest ih =>
    rw [msbFirst_cons, List.length_cons, Nat.pow_succ]
    cases b <;> simp <;> omega

/-- Digit i of the list is bit `length - 1 - i` of the number. -/
theorem testBit_msbFirst (bits : List Bool) (i : Nat) (h : i < bits.length) :
    (msbFirst bits).testBit (bits.length - 1 - i) = bits[i] := by
  induction bits generalizing i with
  | nil => simp at h
  | cons b rest ih =>
    rw [msbFirst_cons, Nat.mul_comm]
    cases i with
    | zero =>
      rw [List.length_cons, Nat.add_sub_cancel, Nat.sub_zero, Nat.testBit_two_pow_mul_add _ (msbFirst_lt rest)]
      cases b <;> simp
    | succ j =>
      have hj : j < rest.length := by simpa using h
      have hi : (b :: rest).length - 1 - (j + 1) = rest.length - 1 - j := by simp; omega
      rw [hi, Nat.testBit_two_pow_mul_add _ (msbFirst_lt rest), if_pos (by omega), ih j hj]
      rfl

/-- Output position i is the input position that entry i names. -/
theorem permute_mbit {N M : Nat} (x : BitVec N) (t : PermTable N M) (i : Nat) (h : i < M) :
    mbit (permute x t) i = mbit x (t.entries[i] - 1) := by
  have hbit : (msbFirst (t.entries.toList.map fun v => mbit x (v - 1))).testBit (M - 1 - i) = mbit x (t.entries[i] - 1) := by
    have hd := testBit_msbFirst (t.entries.toList.map fun v => mbit x (v - 1)) i (by simpa using h)
    rw [List.getElem_map, Vector.getElem_toList] at hd
    simpa only [List.length_map, Vector.length_toList] using hd
  have hi : M - 1 - i < M := by omega
  rw [mbit, BitVec.getMsbD, permute, BitVec.getLsbD_ofNat, hbit]
  simp [h, hi]

/-- The entries of a checked table are in range (R43). -/
theorem PermTable.entry_range {N M : Nat} (t : PermTable N M) (i : Nat) (h : i < M) :
    1 ≤ t.entries[i] ∧ t.entries[i] ≤ N := by
  have hc := t.checked
  simp only [inRange, List.all_eq_true, Bool.and_eq_true, decide_eq_true_eq] at hc
  exact hc _ (by simp)

/-- Two M-bit values are equal when their positions are. -/
theorem eq_of_mbit_eq {M : Nat} {x y : BitVec M} (h : ∀ i, i < M → mbit x i = mbit y i) : x = y :=
  BitVec.eq_of_getMsbD_eq fun i hi => h i hi

end Sys2Proof.Machine
end

