-- ==== Sys2Proof/Laws/Cipher.lean ====
section
/-! SUPPORT. The round keys in closed form, and the order in which each operation consumes them. -/

namespace Sys2Proof.Machine

open Sys2Proof

/-- Round key i of a schedule is PC2 of the halves after the first i + 1 rotations (R57, R58). -/
theorem schedule_getElem (t : CheckedTables) (ss : List Nat) (h : KeyHalves) (i : Nat)
    (hi : i < (schedule t ss h).length) :
    (schedule t ss h)[i] = roundKeyOf t ((ss.take (i + 1)).foldl rotateHalves h) := by
  induction ss generalizing h i with
  | nil => simp [schedule] at hi
  | cons s rest ih =>
    cases i with
    | zero => simp [schedule]
    | succ j => simp [schedule, ih]

theorem generate_toList (t : CheckedTables) (key : Key) :
    (generate t key).toList = schedule t shifts.toList (startHalves t key) := rfl

theorem generate_getElem (t : CheckedTables) (key : Key) (i : Nat) (hi : i < 16) :
    (generate t key)[i] = roundKeyOf t ((shifts.toList.take (i + 1)).foldl rotateHalves (startHalves t key)) := by
  rw [← schedule_getElem t shifts.toList (startHalves t key) i (by simpa [schedule_length] using hi)]
  rfl

/-- ENC consumes the keys as they are. -/
theorem consumed_encryptOrder (keys : Vector RoundKey 16) : consumed keys encryptOrder = keys.toList := by
  refine List.ext_getElem (by simp [consumed]) fun i hi _ => ?_
  have : i < 16 := by simpa [consumed] using hi
  simp only [consumed, List.getElem_map, Vector.getElem_toList]
  interval_cases i <;> rfl

/-- DEC consumes the same keys in the reverse order. -/
theorem consumed_decryptOrder (keys : Vector RoundKey 16) : consumed keys decryptOrder = keys.toList.reverse := by
  refine List.ext_getElem (by simp [consumed]) fun i hi _ => ?_
  have : i < 16 := by simpa [consumed] using hi
  simp only [consumed, List.getElem_map, Vector.getElem_toList, List.getElem_reverse, Vector.length_toList]
  interval_cases i <;> rfl

/-- Nibble g of the substitution's output is what box g yields (R70). -/
theorem slice_substitute (t : CheckedTables) (x : RoundKey) (g : Fin 8) :
    slice (substitute t x) (28 - 4 * g.val) 4 = nibble t x g := by
  apply BitVec.eq_of_getLsbD_eq
  intro i hi
  simp only [substitute, slice, BitVec.getLsbD_extractLsb', BitVec.getLsbD_append, hi, decide_true, Bool.true_and]
  interval_cases i <;> fin_cases g <;> simp

@[simp] theorem rounds_nil (t : CheckedTables) (h : Halves) : rounds t [] h = h := rfl

@[simp] theorem rounds_cons (t : CheckedTables) (k : RoundKey) (ks : List RoundKey) (h : Halves) :
    rounds t (k :: ks) h = rounds t ks (round t h k) := rfl

theorem rounds_append (t : CheckedTables) (ks ls : List RoundKey) (h : Halves) :
    rounds t (ks ++ ls) h = rounds t ls (rounds t ks h) := by
  simp [rounds]

@[simp] theorem round_l (t : CheckedTables) (h : Halves) (k : RoundKey) : (round t h k).l = h.r := rfl

@[simp] theorem round_r (t : CheckedTables) (h : Halves) (k : RoundKey) :
    (round t h k).r = h.l ^^^ feistelF t h.r k := rfl

end Sys2Proof.Machine
end

