-- ==== Sys2Proof/Laws/Decode.lean ====
section
/-! SUPPORT. Widths of operands, and what the decoder reads. -/

namespace Sys2Proof

@[simp] theorem Bits.asWidth_of {n : Nat} (v : BitVec n) : (Bits.of v).asWidth n = some v := by
  simp only [Bits.asWidth, Bits.of]
  exact dif_pos rfl

@[simp] theorem Bits.of_width {n : Nat} (v : BitVec n) : (Bits.of v).width = n := rfl

@[simp] theorem Bits.is64_of (v : BitVec 64) : (Bits.of v).is64 = true := rfl

theorem Bits.asWidth_eq_none {w : Nat} {v : Bits} (h : v.width ≠ w) : v.asWidth w = none := by
  simp [Bits.asWidth, h]

/-- An operand that has the width w is that w-bit vector, presented. -/
theorem Bits.asWidth_eq_some {w : Nat} {v : Bits} {x : BitVec w} (h : v.asWidth w = some x) : v = Bits.of x := by
  obtain ⟨n, y⟩ := v
  by_cases hw : n = w
  · subst hw
    simp only [Bits.asWidth, dite_true, Option.some.injEq] at h
    subst h
    simp [Bits.of]
  · rw [Bits.asWidth_eq_none hw] at h
    cases h

/-- A well-formed instruction is an operation on two 64-bit vectors. -/
theorem Bits.eq_of_is64 {v : Bits} (h : v.is64 = true) : ∃ x : BitVec 64, v = Bits.of x := by
  obtain ⟨n, y⟩ := v
  have hn : n = 64 := by simpa [Bits.is64] using h
  subst hn
  exact ⟨y, rfl⟩

/-- The three fields put together again are the word. -/
theorem CmdWord.fields (w : CmdWord) : (CmdWord.op w ++ CmdWord.block w ++ CmdWord.key w : BitVec 129) = w := by
  apply BitVec.eq_of_getLsbD_eq
  intro i hi
  simp only [CmdWord.op, CmdWord.block, CmdWord.key, slice, BitVec.getLsbD_append, BitVec.getLsbD_extractLsb']
  rcases Nat.lt_or_ge i 64 with h1 | h1
  · simp [h1]
  · rcases Nat.lt_or_ge i 128 with h2 | h2
    · have h3 : i - 64 < 64 := by omega
      have h4 : 64 + (i - 64) = i := by omega
      simp [Nat.not_lt.mpr h1, h3, h4]
    · have : i = 128 := by omega
      subst this
      simp

end Sys2Proof
end

