-- ==== Sys2Proof/Laws/State.lean ====
section
/-! SUPPORT. What each update of the core's state and of the configured system does to each field; later proofs cite these and
unfold no record update. -/

namespace Sys2Proof.Machine

open Sys2Proof

/-! The core -/

section Core

variable (c : CoreState)

@[simp] theorem CoreState.raiseInvalidTable_fatal : c.raiseInvalidTable.fatal = true := rfl
@[simp] theorem CoreState.raiseInvalidTable_inReset : c.raiseInvalidTable.inReset = c.inReset := rfl
@[simp] theorem CoreState.raiseInvalidTable_inFlight : c.raiseInvalidTable.inFlight = c.inFlight := rfl

@[simp] theorem CoreState.setInFlight_fatal (o : Option InFlight) : (c.setInFlight o).fatal = c.fatal := rfl
@[simp] theorem CoreState.setInFlight_inReset (o : Option InFlight) : (c.setInFlight o).inReset = c.inReset := rfl
@[simp] theorem CoreState.setInFlight_inFlight (o : Option InFlight) : (c.setInFlight o).inFlight = o := rfl

@[simp] theorem CoreState.holdReset_fatal : c.holdReset.fatal = c.fatal := rfl
@[simp] theorem CoreState.holdReset_inReset : c.holdReset.inReset = true := rfl
@[simp] theorem CoreState.holdReset_inFlight : c.holdReset.inFlight = none := rfl

/-- Validation sets the latch to what RANGE_OK of the tables says (R125). -/
@[simp] theorem CoreState.validate_fatal (t : Tables) : (c.validate t).fatal = !rangeOk t := by
  unfold CoreState.validate; split <;> simp_all

@[simp] theorem CoreState.validate_inReset (t : Tables) : (c.validate t).inReset = c.inReset := by
  unfold CoreState.validate; split <;> rfl
@[simp] theorem CoreState.validate_inFlight (t : Tables) : (c.validate t).inFlight = c.inFlight := by
  unfold CoreState.validate; split <;> rfl

/-- The release of reset as one update (R125). -/
theorem CoreState.releaseReset_eq (t : Tables) : c.releaseReset t = ⟨!rangeOk t, false, none⟩ := by
  unfold CoreState.releaseReset CoreState.validate CoreState.raiseInvalidTable
  by_cases h : rangeOk t = true <;> simp [h]

/-- A core that is released is a core just out of reset: nothing of what it was before is left (R125, R128). -/
theorem CoreState.releaseReset_eq_afterReset (t : Tables) : c.releaseReset t = CoreState.afterReset t :=
  c.releaseReset_eq t

@[simp] theorem CoreState.releaseReset_fatal (t : Tables) : (c.releaseReset t).fatal = !rangeOk t := by
  rw [c.releaseReset_eq]
@[simp] theorem CoreState.releaseReset_inReset (t : Tables) : (c.releaseReset t).inReset = false := by
  rw [c.releaseReset_eq]
@[simp] theorem CoreState.releaseReset_inFlight (t : Tables) : (c.releaseReset t).inFlight = none := by
  rw [c.releaseReset_eq]

@[simp] theorem CoreState.afterReset_fatal (t : Tables) : (CoreState.afterReset t).fatal = !rangeOk t := rfl
@[simp] theorem CoreState.afterReset_inReset (t : Tables) : (CoreState.afterReset t).inReset = false := rfl
@[simp] theorem CoreState.afterReset_inFlight (t : Tables) : (CoreState.afterReset t).inFlight = none := rfl

@[simp] theorem CoreState.setInFlight_self : c.setInFlight c.inFlight = c := rfl

@[simp] theorem CoreState.setInFlight_setInFlight (o o' : Option InFlight) :
    (c.setInFlight o).setInFlight o' = c.setInFlight o' := rfl

/-- An operation in progress, put aside, leaves the core that had none. -/
theorem CoreState.setInFlight_none (h : c.inFlight = none) : c.setInFlight none = c := by
  rw [← h]; rfl

end Core

/-! The configured system -/

section System

variable (s : State)

@[simp] theorem State.respond_toCoreState (r : Response) : (s.respond r).toCoreState = s.toCoreState := rfl
@[simp] theorem State.respond_rom (r : Response) : (s.respond r).rom = s.rom := rfl
@[simp] theorem State.respond_inputs (r : Response) : (s.respond r).inputs = s.inputs := rfl
@[simp] theorem State.respond_responses (r : Response) : (s.respond r).responses = s.responses ++ [r] := rfl

@[simp] theorem State.setInFlight_toCoreState (o : Option InFlight) : (s.setInFlight o).toCoreState = s.toCoreState.setInFlight o := rfl
@[simp] theorem State.setInFlight_rom (o : Option InFlight) : (s.setInFlight o).rom = s.rom := rfl
@[simp] theorem State.setInFlight_inputs (o : Option InFlight) : (s.setInFlight o).inputs = s.inputs := rfl
@[simp] theorem State.setInFlight_responses (o : Option InFlight) : (s.setInFlight o).responses = s.responses := rfl

@[simp] theorem State.setInputs_toCoreState (es : List HostEvent) : (s.setInputs es).toCoreState = s.toCoreState := rfl
@[simp] theorem State.setInputs_rom (es : List HostEvent) : (s.setInputs es).rom = s.rom := rfl
@[simp] theorem State.setInputs_inputs (es : List HostEvent) : (s.setInputs es).inputs = es := rfl
@[simp] theorem State.setInputs_responses (es : List HostEvent) : (s.setInputs es).responses = s.responses := rfl

@[simp] theorem State.holdReset_toCoreState : s.holdReset.toCoreState = s.toCoreState.holdReset := rfl
@[simp] theorem State.holdReset_rom : s.holdReset.rom = s.rom := rfl
@[simp] theorem State.holdReset_inputs : s.holdReset.inputs = s.inputs := rfl
@[simp] theorem State.holdReset_responses : s.holdReset.responses = s.responses := rfl

@[simp] theorem State.releaseReset_toCoreState : s.releaseReset.toCoreState = s.toCoreState.releaseReset s.rom := rfl
@[simp] theorem State.releaseReset_rom : s.releaseReset.rom = s.rom := rfl
@[simp] theorem State.releaseReset_inputs : s.releaseReset.inputs = s.inputs := rfl
@[simp] theorem State.releaseReset_responses : s.releaseReset.responses = s.responses := rfl

@[simp] theorem State.afterReset_toCoreState (t : Tables) : (State.afterReset t).toCoreState = CoreState.afterReset t := rfl
@[simp] theorem State.afterReset_rom (t : Tables) : (State.afterReset t).rom = t := rfl
@[simp] theorem State.afterReset_inputs (t : Tables) : (State.afterReset t).inputs = [] := rfl
@[simp] theorem State.afterReset_responses (t : Tables) : (State.afterReset t).responses = [] := rfl

@[simp] theorem State.absorb_silent (c : CoreState) : s.absorb (.next (c, none)) = .next { s with toCoreState := c } := rfl
@[simp] theorem State.absorb_response (c : CoreState) (r : Response) :
    s.absorb (.next (c, some r)) = .next (State.respond { s with toCoreState := c } r) := rfl
@[simp] theorem State.absorb_fault (r : Fault) : s.absorb (.fault r) = .fault r := rfl
@[simp] theorem State.absorb_refused (r : Refusal) : s.absorb (.refused r) = .refused r := rfl

/-- All that taking over a step's answer can do: the ROM and the pending inputs stay, and the record gains the step's
response if it has one. -/
theorem State.absorb_next {s s' : State} {r : CoreResult} (h : s.absorb r = .next s') :
    ∃ c o, r = .next (c, o) ∧ s' = { s with toCoreState := c, responses := s.responses ++ o.toList } := by
  unfold State.absorb at h
  split at h
  · rename_i c
    cases h
    exact ⟨c, none, rfl, by simp⟩
  · rename_i c o
    cases h
    exact ⟨c, some o, rfl, rfl⟩
  · cases h
  · cases h

/-- What a step answers replaces the core's state whole: an operation put aside before makes no difference. -/
@[simp] theorem State.setInFlight_absorb (o : Option InFlight) (r : CoreResult) :
    (s.setInFlight o).absorb r = s.absorb r := by
  obtain ⟨c, _ | r⟩ | r | r := r <;> rfl

/-- The two other updates of the core's part, written as updates of the whole. -/
theorem State.setInFlight_eq (o : Option InFlight) : s.setInFlight o = { s with inFlight := o } := rfl
theorem State.holdReset_eq : s.holdReset = { s with inReset := true, inFlight := none } := rfl

/-- The release of reset as one update (R125). -/
theorem State.releaseReset_eq :
    s.releaseReset = { s with fatal := !rangeOk s.rom, inReset := false, inFlight := none } := by
  unfold State.releaseReset
  rw [CoreState.releaseReset_eq]

/-- Taking the presented word back out leaves the state as it was. -/
@[simp] theorem State.setInputs_self : s.setInputs s.inputs = s := rfl

@[simp] theorem State.setInputs_setInputs (es fs : List HostEvent) : (s.setInputs es).setInputs fs = s.setInputs fs := rfl

@[simp] theorem State.setInFlight_self : s.setInFlight s.inFlight = s := rfl

@[simp] theorem State.setInFlight_setInFlight (o o' : Option InFlight) :
    (s.setInFlight o).setInFlight o' = s.setInFlight o' := rfl

/-- An operation in progress, put aside, leaves the state that had none. -/
theorem State.setInFlight_none (h : s.inFlight = none) : s.setInFlight none = s := by
  rw [← h]; rfl

@[simp] theorem State.present_toCoreState (w : Bits) : (s.present w).toCoreState = s.toCoreState := rfl
@[simp] theorem State.present_rom (w : Bits) : (s.present w).rom = s.rom := rfl
@[simp] theorem State.present_inputs (w : Bits) : (s.present w).inputs = .command w :: s.inputs := rfl
@[simp] theorem State.present_responses (w : Bits) : (s.present w).responses = s.responses := rfl

@[simp] theorem State.present_setInputs (w : Bits) (es : List HostEvent) :
    (s.present w).setInputs es = s.setInputs es := rfl

end System

end Sys2Proof.Machine
end

