-- ==== Sys2Proof/Laws/Exec.lean ====
section
/-! SUPPORT. Everything the shared operation `operate` can do, and exec in terms of it. -/

namespace Sys2Proof.Machine

open Sys2Proof

@[simp] theorem operands64_of (b : Block) (k : Key) : operands64 (Bits.of b) (Bits.of k) = some (b, k) := by
  simp [operands64]

/-- The operands of a well-formed instruction, and of no other, pass the width check (R111). -/
theorem operands64_eq_none (block key : Bits) :
    operands64 block key = none ↔ (block.is64 && key.is64) = false := by
  by_cases hb : block.width = 64 <;> by_cases hk : key.width = 64 <;>
    simp [operands64, Bits.asWidth, Bits.is64, hb, hk]

theorem operands64_eq_some {block key : Bits} {b : Block} {k : Key} (h : operands64 block key = some (b, k)) :
    block = Bits.of b ∧ key = Bits.of k := by
  unfold operands64 at h
  split at h
  · rename_i x y hx hy
    simp only [Option.some.injEq, Prod.mk.injEq] at h
    obtain ⟨rfl, rfl⟩ := h
    exact ⟨Bits.asWidth_eq_some hx, Bits.asWidth_eq_some hy⟩
  · cases h

/-- A core is not blocked exactly when `cmd_ready` is 1 (R39). -/
theorem CoreState.blocked_eq_none (c : CoreState) : c.blocked = none ↔ c.cmdReady = true := by
  unfold CoreState.blocked CoreState.cmdReady
  cases c.inReset <;> cases c.fatal <;> cases c.inFlight <;> simp

section Operate

variable {f : CheckedTables → Block → Key → Block} {t : Tables} {block key : Bits} {c : CoreState}

theorem operate_blocked {r : Fault} (h : c.blocked = some r) : operate f t block key c = .fault r := by
  simp [operate, h]

theorem operate_badWidth (hc : c.blocked = none) (hw : operands64 block key = none) :
    operate f t block key c = .next (c, some .invalidInputWidth) := by
  simp [operate, hc, hw, CoreState.raiseInvalidInputWidth]

theorem operate_ok {b : Block} {k : Key} (hc : c.blocked = none) (hw : operands64 block key = some (b, k))
    (ht : rangeOk t = true) : operate f t block key c = .next (c, some (.ok (f (checkedTables t ht) b k))) := by
  simp [operate, hc, hw, ht]

/-- When `operate` answers a next state, it delivered one response and did nothing else: an error response for a bad
width, or the value of `f`. -/
theorem operate_next {a : CoreState × Option Response} (h : operate f t block key c = .next a) :
    c.blocked = none ∧
      ((operands64 block key = none ∧ a = (c, some .invalidInputWidth)) ∨
        ∃ b k, ∃ ht : rangeOk t = true,
          operands64 block key = some (b, k) ∧ a = (c, some (.ok (f (checkedTables t ht) b k)))) := by
  unfold operate at h
  split at h
  · cases h
  · rename_i hc
    refine ⟨hc, ?_⟩
    split at h
    · rename_i hw
      cases h
      exact .inl ⟨hw, rfl⟩
    · rename_i b k hw
      split at h
      · rename_i ht
        cases h
        exact .inr ⟨b, k, ht, hw, rfl⟩
      · cases h

/-- A refusal of `operate` is the one for unchecked tables. -/
theorem operate_refused {r : Refusal} (h : operate f t block key c = .refused r) :
    c.blocked = none ∧ rangeOk t = false := by
  unfold operate at h
  split at h
  · cases h
  · rename_i hc
    split at h
    · cases h
    · split at h
      · cases h
      · rename_i ht
        exact ⟨hc, by simpa using ht⟩

/-- A fault of `operate` is the reason the core is blocked. -/
theorem operate_fault {r : Fault} (h : operate f t block key c = .fault r) : c.blocked = some r := by
  unfold operate at h
  split at h
  · rename_i r' hc
    cases h
    exact hc
  · split at h
    · cases h
    · split at h <;> cases h

end Operate

/-- The function an instruction computes (R81, R82). -/
def valueOf : Instr → CheckedTables → Block → Key → Block
  | .enc _ _ => encrypt
  | .dec _ _ => decrypt

/-- Both instructions are `operate` on their own operands. -/
theorem coreExec_eq (t : Tables) (i : Instr) (c : CoreState) :
    coreExec t i c = operate (valueOf i) t i.block i.key c := by
  cases i <;> rfl

/-- A command's step of the core that answers leaves the core as it was and has one response (R11, R17). -/
theorem coreExec_next {t : Tables} {i : Instr} {c : CoreState} {a : CoreState × Option Response}
    (h : coreExec t i c = .next a) : ∃ r, a = (c, some r) := by
  rw [coreExec_eq] at h
  obtain ⟨-, ⟨-, rfl⟩ | ⟨b, k, ht, -, rfl⟩⟩ := operate_next h
  · exact ⟨_, rfl⟩
  · exact ⟨_, rfl⟩

/-- On the configured system an instruction is the core's step over the ROM (R13). -/
theorem exec_eq_absorb (i : Instr) (s : State) : exec i s = s.absorb (coreExec s.rom i s.toCoreState) := by
  cases i <;> rfl

section Exec

variable {i : Instr} {s s' : State}

theorem exec_blocked {r : Fault} (h : s.blocked = some r) : exec i s = .fault r := by
  rw [exec_eq_absorb, coreExec_eq, operate_blocked h, State.absorb_fault]

theorem exec_badWidth (hs : s.blocked = none) (hw : operands64 i.block i.key = none) :
    exec i s = .next (s.respond .invalidInputWidth) := by
  rw [exec_eq_absorb, coreExec_eq, operate_badWidth hs hw, State.absorb_response]

theorem exec_ok {b : Block} {k : Key} (hs : s.blocked = none) (hw : operands64 i.block i.key = some (b, k))
    (ht : rangeOk s.rom = true) : exec i s = .next (s.respond (.ok (valueOf i (checkedTables s.rom ht) b k))) := by
  rw [exec_eq_absorb, coreExec_eq, operate_ok hs hw ht, State.absorb_response]

/-- Everything an instruction can do when it answers a next state. -/
theorem exec_next_cases (h : exec i s = .next s') :
    s.blocked = none ∧
      ((operands64 i.block i.key = none ∧ s' = s.respond .invalidInputWidth) ∨
        ∃ b k, ∃ ht : rangeOk s.rom = true,
          operands64 i.block i.key = some (b, k) ∧ s' = s.respond (.ok (valueOf i (checkedTables s.rom ht) b k))) := by
  rw [exec_eq_absorb, coreExec_eq] at h
  obtain ⟨c, o, hr, rfl⟩ := State.absorb_next h
  obtain ⟨hb, ⟨hw, ha⟩ | ⟨b, k, ht, hw, ha⟩⟩ := operate_next hr
  · cases ha
    exact ⟨hb, .inl ⟨hw, rfl⟩⟩
  · cases ha
    exact ⟨hb, .inr ⟨b, k, ht, hw, rfl⟩⟩

/-- Whatever an instruction does, it does by delivering one response. -/
theorem exec_next (h : exec i s = .next s') : ∃ r, s' = s.respond r := by
  obtain ⟨-, ⟨-, rfl⟩ | ⟨b, k, ht, -, rfl⟩⟩ := exec_next_cases h
  · exact ⟨_, rfl⟩
  · exact ⟨_, rfl⟩

theorem exec_fault {r : Fault} (h : exec i s = .fault r) : s.blocked = some r := by
  rw [exec_eq_absorb, coreExec_eq] at h
  cases ho : operate (valueOf i) s.rom i.block i.key s.toCoreState with
  | next a => obtain ⟨c, _ | r'⟩ := a <;> rw [ho] at h <;> cases h
  | fault r' => rw [ho] at h; cases h; exact operate_fault ho
  | refused r' => rw [ho] at h; cases h

theorem exec_refused {r : Refusal} (h : exec i s = .refused r) : s.blocked = none ∧ rangeOk s.rom = false := by
  rw [exec_eq_absorb, coreExec_eq] at h
  cases ho : operate (valueOf i) s.rom i.block i.key s.toCoreState with
  | next a => obtain ⟨c, _ | r'⟩ := a <;> rw [ho] at h <;> cases h
  | fault r' => rw [ho] at h; cases h
  | refused r' => rw [ho] at h; cases h; exact operate_refused ho

end Exec

end Sys2Proof.Machine
end

