-- ==== Sys2Proof/Laws/PerInstr.lean ====
section
/-! SUPPORT. Statements about every instruction as syntax, one lemma per constructor. -/

namespace Sys2Proof.Laws.EncodesExactlyWellFormed

open Sys2Proof

/-- An instruction has a 129-bit command word exactly when both operands are 64 bits wide (R32). -/
def Statement (i : Instr) : Prop := (encode i).isSome = i.wellFormed

theorem enc (block key : Bits) : Statement (.enc block key) := by
  by_cases hb : block.width = 64 <;> by_cases hk : key.width = 64 <;>
    simp [Statement, encode, Instr.wellFormed, Instr.block, Instr.key, Bits.asWidth, Bits.is64, hb, hk]

theorem dec (block key : Bits) : Statement (.dec block key) := by
  by_cases hb : block.width = 64 <;> by_cases hk : key.width = 64 <;>
    simp [Statement, encode, Instr.wellFormed, Instr.block, Instr.key, Bits.asWidth, Bits.is64, hb, hk]

end Sys2Proof.Laws.EncodesExactlyWellFormed
end

