-- ==== Sys2Proof/Laws/Step.lean ====
section
/-! SUPPORT. Everything one event and one step can do, said once. -/

namespace Sys2Proof.Machine

open Sys2Proof

theorem runWord_ok {w : Bits} {i : Instr} {s : State} (h : decode w = .ok i) : runWord w s = exec i s := by
  simp [runWord, h]

/-- A word that runs is a command, and the step is its instruction's. -/
theorem runWord_next {w : Bits} {s s' : State} (h : runWord w s = .next s') : ∃ i, decode w = .ok i ∧ exec i s = .next s' := by
  unfold runWord at h
  split at h
  · rename_i i hi
    exact ⟨i, hi, h⟩
  · cases h

/-- A word that a core runs is a command, and the core's step is its instruction's. -/
theorem coreWord_next {t : Tables} {w : Bits} {c : CoreState} {a : CoreState × Option Response}
    (h : coreWord t w c = .next a) : ∃ i, decode w = .ok i ∧ coreExec t i c = .next a := by
  unfold coreWord at h
  split at h
  · rename_i i hi
    exact ⟨i, hi, h⟩
  · cases h

/-- On the configured system a word is the core's step over the ROM (R13). -/
theorem runWord_eq_absorb (w : Bits) (s : State) : runWord w s = s.absorb (coreWord s.rom w s.toCoreState) := by
  unfold runWord coreWord
  split
  · exact exec_eq_absorb _ s
  · rfl

/-- A clock cycle on the configured system, action by action: the core's step over the ROM, taken over (R39). -/
theorem clockEdge_eq (L : Nat) (p : PortInputs) (s : State) :
    clockEdge L p s = match portAction L p s.toCoreState with
      | .hold => .next s.holdReset
      | .release => .next s.releaseReset
      | .idle => .next s
      | .accept w => .next (s.setInFlight (some ⟨w, L - 1⟩))
      | .wait o => .next (s.setInFlight (some ⟨o.word, o.remaining - 1⟩))
      | .respond w => runWord (Bits.of w) (s.setInFlight none) := by
  unfold clockEdge coreClock
  cases portAction L p s.toCoreState <;> try rfl
  exact (State.setInFlight_absorb ..).symm.trans (runWord_eq_absorb _ (s.setInFlight none)).symm

/-- What one clock cycle can do (R39). -/
theorem clockEdge_next {L : Nat} {p : PortInputs} {s s' : State} (h : clockEdge L p s = .next s') :
    (p.rst = true ∧ s' = s.holdReset) ∨
    (p.rst = false ∧ s.inReset = true ∧ s' = s.releaseReset) ∨
    (p.rst = false ∧ s.inReset = false ∧ s' = s) ∨
    (p.rst = false ∧ s.inReset = false ∧ s.inFlight = none ∧ p.cmdValid = true ∧ s.cmdReady = true ∧ L ≠ 0 ∧
      s' = s.setInFlight (some ⟨p.word, L - 1⟩)) ∨
    (∃ o, p.rst = false ∧ s.inReset = false ∧ s.inFlight = some o ∧ o.remaining ≠ 0 ∧
      s' = s.setInFlight (some ⟨o.word, o.remaining - 1⟩)) ∨
    (∃ i r, p.rst = false ∧ s.inReset = false ∧ exec i (s.setInFlight none) = .next s' ∧
      s' = (s.setInFlight none).respond r) := by
  have run {w : CmdWord} (hr : p.rst = false) (hi : s.inReset = false)
      (hw : runWord (Bits.of w) (s.setInFlight none) = .next s') :
      ∃ i r, p.rst = false ∧ s.inReset = false ∧ exec i (s.setInFlight none) = .next s' ∧
        s' = (s.setInFlight none).respond r := by
    obtain ⟨i, -, he⟩ := runWord_next hw
    obtain ⟨r, hr'⟩ := exec_next he
    exact ⟨i, r, hr, hi, he, hr'⟩
  rw [clockEdge_eq] at h
  unfold portAction at h
  by_cases hr : p.rst = true
  · simp only [hr, if_true] at h
    cases h
    exact .inl ⟨hr, rfl⟩
  · simp only [Bool.not_eq_true] at hr
    by_cases hi : s.inReset = true
    · simp only [hr, hi, if_true, Bool.false_eq_true, if_false] at h
      cases h
      exact .inr (.inl ⟨hr, hi, rfl⟩)
    · simp only [Bool.not_eq_true] at hi
      simp only [hr, hi, Bool.false_eq_true, if_false] at h
      cases ho : s.inFlight with
      | some o =>
        by_cases hz : o.remaining = 0
        · simp only [ho, hz, if_true] at h
          exact .inr (.inr (.inr (.inr (.inr (run hr hi h)))))
        · simp only [ho, hz, if_false] at h
          cases h
          exact .inr (.inr (.inr (.inr (.inl ⟨o, hr, hi, rfl, hz, rfl⟩))))
      | none =>
        by_cases hv : (p.cmdValid && s.cmdReady) = true
        · by_cases hl : L = 0
          · simp only [ho, hv, hl, if_true] at h
            exact .inr (.inr (.inr (.inr (.inr (run hr hi h)))))
          · simp only [ho, hv, hl, if_true, if_false] at h
            cases h
            simp only [Bool.and_eq_true] at hv
            exact .inr (.inr (.inr (.inl ⟨hr, hi, rfl, hv.1, hv.2, hl, rfl⟩)))
        · simp only [ho, hv] at h
          cases h
          exact .inr (.inr (.inl ⟨hr, hi, rfl⟩))

/-- Every event but the platform's change of the ROM is the core's step over the ROM as it is (R13). -/
theorem runEvent_eq_absorb {e : HostEvent} (he : ∀ t, e ≠ .writeRom t) (s : State) :
    runEvent e s = s.absorb (coreStep Config.latency s.rom e s.toCoreState) := by
  cases e with
  | command w => exact runWord_eq_absorb w s
  | call i => exact exec_eq_absorb i s
  | writeRom t => exact absurd rfl (he t)
  | assertReset => rfl
  | releaseReset => rfl
  | clock p => rfl

/-- What one host event can do. -/
theorem runEvent_next {e : HostEvent} {s s' : State} (h : runEvent e s = .next s') :
    (∃ i r, exec i s = .next s' ∧ s' = s.respond r) ∨
    s' = s.holdReset ∨
    (∃ t, e = .writeRom t ∧ s.inReset = true ∧ s' = { s with rom := t }) ∨
    (s.inReset = true ∧ s' = s.releaseReset) ∨
    s' = s ∨
    (∃ p, e = .clock p ∧ clockEdge Config.latency p s = .next s') := by
  cases e with
  | command w =>
    obtain ⟨i, -, he⟩ := runWord_next h
    obtain ⟨r, hr⟩ := exec_next he
    exact .inl ⟨i, r, he, hr⟩
  | call i =>
    obtain ⟨r, hr⟩ := exec_next h
    exact .inl ⟨i, r, h, hr⟩
  | assertReset =>
    cases h
    exact .inr (.inl rfl)
  | writeRom t =>
    simp only [runEvent, State.writeRom] at h
    split at h
    · rename_i hi
      cases h
      exact .inr (.inr (.inl ⟨t, rfl, hi, rfl⟩))
    · cases h
  | releaseReset =>
    by_cases hi : s.inReset = true <;> simp only [runEvent, coreStep, hi, if_true, if_false, Bool.false_eq_true] at h <;> cases h
    · exact .inr (.inr (.inr (.inl ⟨hi, rfl⟩)))
    · exact .inr (.inr (.inr (.inr (.inl rfl))))
  | clock p => exact .inr (.inr (.inr (.inr (.inr ⟨p, rfl, h⟩))))

/-- A step takes the oldest event, or leaves an idle core as it is. -/
theorem step_next {s s' : State} (h : step s = .next s') :
    (s.inputs = [] ∧ s' = s) ∨ ∃ e rest, s.inputs = e :: rest ∧ runEvent e (s.setInputs rest) = .next s' := by
  unfold step takeEvent at h
  split at h
  · rename_i hs
    cases h
    exact .inl ⟨hs, rfl⟩
  · rename_i e rest hs
    exact .inr ⟨e, rest, hs, h⟩

end Sys2Proof.Machine
end

