-- ==== Sys2Proof/Tests/Slice0.lean ====
section
/-! SUPPORT. Tests, whose expected results are the spec's own vectors (95_test_vectors.md), and for each statement with
hypotheses a state and operands that meet them together. -/

-- One theorem after another: evaluating many in parallel needs a thread's memory for each.
set_option Elab.async false

namespace Sys2Proof.Tests

open Sys2Proof Sys2Proof.Machine

/-! The well-formedness check -/

/-- A 63-bit block is refused (V50, row 4). -/
theorem test_wf_block : (Instr.enc ⟨63, 0⟩ ⟨64, 0⟩).wellFormed = false := by decide

/-- A 65-bit key is refused (V50, row 2). -/
theorem test_wf_key : (Instr.dec ⟨64, 0⟩ ⟨65, 0⟩).wellFormed = false := by decide

theorem test_wf_ok : (Instr.enc ⟨64, 1⟩ ⟨64, 2⟩).wellFormed = true := by decide

/-! Decoding: words written out from R32 -/

/-- Bit 128 is op = 0, bit 64 is the lowest bit of the block, bit 63 the highest of the key. -/
theorem test_decode_enc :
    decodeCmd 0b000000000000000000000000000000000000000000000000000000000000000011000000000000000000000000000000000000000000000000000000000000000#129
      = some (.enc ⟨64, 1⟩ ⟨64, 0x8000000000000000⟩) := by
  decide +kernel

/-- Bit 128 is op = 1, bit 127 the highest bit of the block, bit 0 the lowest of the key. -/
theorem test_decode_dec :
    decodeCmd 0b110000000000000000000000000000000000000000000000000000000000000000000000000000000000000000000000000000000000000000000000000000001#129
      = some (.dec ⟨64, 0x8000000000000000⟩ ⟨64, 1⟩) := by
  decide +kernel

/-- Line 2 of P1, encoded. -/
theorem test_encode_dec : encode (.dec ⟨64, 0x85E813540F0AB405⟩ ⟨64, 0x133457799BBCDFF1⟩) =
    some 0x185E813540F0AB405133457799BBCDFF1 := by
  decide +kernel

/-- P4, step 1: 2^64 does not fit the block field. -/
theorem test_encode_wide : encode (.enc (naturalOperand 0x10000000000000000) (naturalOperand 0)) = none := by decide +kernel

/-! The components -/

theorem fips_range : rangeOk tablesFips = true := by decide +kernel

/-- TABLES_FIPS, checked. -/
def fips : CheckedTables := checkedTables tablesFips fips_range

/-- V10, row 3: expansion with repeated entries. -/
theorem test_permute_expands :
    permute 0b1011#4 (⟨#v[1, 1, 4, 4, 2, 3], by decide⟩ : PermTable 4 6) = 0b111101#6 := by decide

/-- V24: position 1 of IP's input goes to position 40. -/
theorem test_permute_ip : permute 0x8000000000000000#64 fips.ip = 0x0000000001000000#64 := by decide +kernel

/-- V12: two bits wrap, order kept. -/
theorem test_rotl28_wraps : rotl28 0xC000000 2 = 0x0000003 := by decide

/-- V20, rows 0 and 8. -/
theorem test_generate : (generate fips 0x133457799BBCDFF1)[0] = 0x1B02EFFC7072 ∧
    (generate fips 0x133457799BBCDFF1)[8] = 0xE0DBEBEDE781 := by
  decide +kernel

/-- V23, row 7: eight different groups. -/
theorem test_feistel : feistelF fips 0x12345678 0x0F0F0F0F0F0F = 0x4A56390C := by decide +kernel

/-- V13: group 0b100111 is row 3, column 3. -/
theorem test_row_column : sboxRow 0b100111 = 3 ∧ sboxColumn 0b100111 = 3 := by decide

/-- V51: in range at 64, out of range at 65 and at 0. -/
theorem test_latch :
    (State.afterReset { tablesFips with ip := tablesFips.ip.set 0 65 }).fatal = true ∧
    (State.afterReset { tablesFips with e := tablesFips.e.set 47 33 }).fatal = true ∧
    (State.afterReset { tablesFips with pc2 := tablesFips.pc2.set 0 57 }).fatal = true ∧
    (State.afterReset { tablesFips with p := tablesFips.p.set 31 0 }).fatal = true ∧
    (State.afterReset { tablesFips with ip := tablesFips.ip.set 0 50 }).fatal = false := by
  decide +kernel

/-! One step -/

/-- The responses recorded by a step. -/
def recorded (r : Result) : Option (List Response) :=
  match r with
  | .next s => some s.responses
  | _ => none

/-- V21. -/
theorem test_step_enc : recorded (step (State.reset.withFetchWord 136 0x00123456789ABCDEF133457799BBCDFF1)) =
    some [.ok 0x85E813540F0AB405] := by
  decide +kernel

/-- V40: the same command over TABLES_REV; a model with the tables wired in would answer as V21. -/
theorem test_exec_enc_rev :
    recorded (exec (.enc ⟨64, 0x0123456789ABCDEF⟩ ⟨64, 0x133457799BBCDFF1⟩) (State.afterReset tablesRev)) =
      some [.ok 0xFB177E695B581039] := by
  decide +kernel

/-- V22. -/
theorem test_step_dec : recorded (step (State.reset.withFetchWord 136 0x185E813540F0AB405133457799BBCDFF1)) =
    some [.ok 0x0123456789ABCDEF] := by
  decide +kernel

/-- V22's last line: DEC where ENC was meant. -/
theorem test_exec_dec_other :
    recorded (exec (.dec ⟨64, 0x0123456789ABCDEF⟩ ⟨64, 0x133457799BBCDFF1⟩) State.reset) =
      some [.ok 0xEE0F7C12E0B09338] := by
  decide +kernel

/-- V50, row 1: status 1, no data, not truncated to 0. -/
theorem test_call_wide : recorded (step (State.reset.load [.call (.enc (naturalOperand (2 ^ 64)) (naturalOperand 0))])) =
    some [.invalidInputWidth] := by
  decide +kernel

/-- R23 and V36: the bytes of "Now is t" are the block. -/
theorem test_bytes : byteStringOperand [0x4E, 0x6F, 0x77, 0x20, 0x69, 0x73, 0x20, 0x74] = ⟨64, 0x4E6F772069732074⟩ ∧
    blockBytes 0x4E6F772069732074 = [0x4E, 0x6F, 0x77, 0x20, 0x69, 0x73, 0x20, 0x74] := by
  decide +kernel

/-- R38, line 2 of P1. -/
theorem test_listing :
    readLine ['D', 'E', 'C', ' ', ' ', '0', 'x', '8', '5', 'E', '8', '1', '3', '5', '4', '0', 'F', '0', 'A', 'B', '4', '0', '5', ',', ' ',
      '0', 'x', '1', '3', '3', '4', '5', '7', '7', '9', '9', 'B', 'B', 'C', 'D', 'F', 'F', '1'] =
    some (.dec ⟨64, 0x85E813540F0AB405⟩ ⟨64, 0x133457799BBCDFF1⟩) ∧
    (renderLine (.enc ⟨64, 0x0123456789ABCDEF⟩ ⟨64, 0xFEDCBA9876543210⟩)).bind readLine =
      some (.enc ⟨64, 0x0123456789ABCDEF⟩ ⟨64, 0xFEDCBA9876543210⟩) := by
  decide +kernel

/-- The pins that present the command word w. -/
def presenting (w : CmdWord) : PortInputs := ⟨false, true, CmdWord.op w, CmdWord.block w, CmdWord.key w⟩

/-- R39 with LATENCY = 0: the response is combinational in the cycle of acceptance, and `cmd_ready` is 1 in it. -/
theorem test_port_latency0 : portOutputs 0 (presenting 0x00123456789ABCDEF133457799BBCDFF1) State.reset =
    ⟨true, true, some 0, some 0x85E813540F0AB405, false, 0⟩ := by
  decide +kernel

/-- P4, steps 3 and 4 on the ports: `fatal` = 1, `status_out` = 2, nothing accepted. -/
theorem test_port_fatal : portOutputs 0 (presenting 0) (State.afterReset { tablesFips with ip := tablesFips.ip.set 0 65 }) =
    ⟨false, false, none, none, true, 2⟩ := by
  decide +kernel

/-! Witnesses -/

theorem rev_range : rangeOk tablesRev = true := by decide +kernel

theorem rev_ipFp : ipFpOk tablesRev = true := by decide +kernel

/-- The witness state: a core just out of reset over TABLES_REV. -/
def core0 : State := State.afterReset tablesRev

/-- The witness instruction. -/
def instr0 : Instr := .enc (Bits.of (1 : Block)) (Bits.of (2 : Key))

theorem core0_ready : core0.Ready := ⟨by decide +kernel, rfl, rfl, rev_range⟩

theorem core0_inv : core0.Inv := ⟨fun _ => rfl, fun _ h => by cases h⟩

theorem core0_idle : core0.blocked = none := (CoreState.blocked_eq_none _).2 (by decide +kernel)

theorem core0_exec : ∃ s', exec instr0 core0 = .next s' :=
  ⟨_, exec_ok (i := instr0) core0_idle (operands64_of 1 2) rev_range⟩

theorem core0_step : ∃ s', step (core0.setInputs [.call instr0]) = .next s' := core0_exec

/-- Tables that fail RANGE_OK (V51). -/
def badTables : Tables := { tablesFips with ip := tablesFips.ip.set 0 65 }

theorem badTables_range : rangeOk badTables = false := by decide +kernel

/-- A stuck core. -/
def stuck0 : State := State.afterReset badTables

/-- A core with an operation in progress that is due in n further cycles. -/
def busy0 (n : Nat) : State := core0.setInFlight (some ⟨1, n⟩)

theorem witness_ReleaseOfResetValidatesTables : core0.holdReset.inReset = true := rfl

/-- A core held in reset, and one with FATAL = 1 besides. -/
theorem witness_CommandInResetIsAFaultNamedFirst :
    core0.holdReset.inReset = true ∧ stuck0.holdReset.inReset = true ∧ stuck0.holdReset.fatal = true :=
  ⟨rfl, rfl, by decide +kernel⟩

theorem witness_StepKeepsLatchAndInFlightInvariant :
    (core0.setInputs [.call instr0]).Inv ∧ ∃ s', step (core0.setInputs [.call instr0]) = .next s' :=
  ⟨⟨core0_inv.latch, core0_inv.inFlight⟩, core0_step⟩

theorem witness_FatalChangesOnlyAtRelease :
    (∃ s', step (core0.holdReset.setInputs [.releaseReset]) = .next s' ∧
      (core0.holdReset.setInputs [.releaseReset]).inReset = true ∧ s'.inReset = false) ∧
    (∃ s', step (core0.setInputs [.call instr0]) = .next s' ∧ (core0.setInputs [.call instr0]).inReset = false) ∧
    (∃ s', exec instr0 core0 = .next s') ∧ stuck0.fatal = true := by
  refine ⟨⟨_, rfl, rfl, by simp⟩, ?_, core0_exec, by decide +kernel⟩
  obtain ⟨s', h⟩ := core0_step
  exact ⟨s', h, rfl⟩

theorem witness_RomChangesOnlyInReset :
    (∃ s', exec instr0 core0 = .next s') ∧
    (core0.inReset = false ∧ ∃ s', step (core0.setInputs [.call instr0]) = .next s') ∧ core0.holdReset.inReset = true :=
  ⟨core0_exec, ⟨rfl, core0_step⟩, rfl⟩

theorem witness_ResetOverNewTablesRecoversAnyState :
    (stuck0.setInputs [.assertReset, .writeRom tablesFips, .releaseReset]).inputs =
      [.assertReset, .writeRom tablesFips, .releaseReset] ++ [] := rfl

theorem witness_DecodeOfEncodeIsTheInstruction : instr0.wellFormed = true := by decide

/-- The nearest lengths, and the least word with a bit above bit 128, which is rejected. -/
theorem witness_OtherLengthsAreRejectedByName :
    (⟨128, 0⟩ : Bits).width ≠ 129 ∧ (⟨130, 0⟩ : Bits).width ≠ 129 ∧ 2 ^ 129 ≤ 2 ^ 129 % 2 ^ 136 ∧
    decodeTableWord 136 (2 ^ 129) = none := by
  decide +kernel

/-- A port response exists: the last clause of the response word's statement has its hypothesis met. -/
theorem witness_ResponseWordIsStatusAndData :
    portResponse 0 (presenting 0) State.reset = some (.ok 0x8CA64DE9C1B123A7) := by
  decide +kernel

theorem witness_ListingLineReadsBack : (Instr.dec (Bits.of (0 : Block)) (Bits.of (ones 64))).wellFormed = true := by decide

theorem witness_StepRunsThePresentedCommand :
    (core0.present (tableWord 136 0)).inputs = .command (tableWord 136 0) :: [] ∧
    decode (tableWord 136 0) = .ok (.enc (Bits.of (0 : Block)) (Bits.of (0 : Key))) ∧
    decodeTableWord 136 0 = some (.enc (Bits.of (0 : Block)) (Bits.of (0 : Key))) ∧
    (core0.setInputs [.call instr0]).inputs = .call instr0 :: [] ∧ core0.inputs = [] := by
  refine ⟨rfl, ?_, by decide +kernel, rfl, rfl⟩
  have h : decodeTableWord 136 0 = some (.enc (Bits.of (0 : Block)) (Bits.of (0 : Key))) := by decide +kernel
  unfold decodeTableWord at h
  split at h
  · rename_i i hi
    cases h
    exact hi
  · cases h

/-- An event that is not the platform's, and a step's answer that is taken over. -/
theorem witness_StepTakesTablesAsAParameter :
    (core0.setInputs [.call instr0]).inputs = .call instr0 :: [] ∧ (∀ t, HostEvent.call instr0 ≠ .writeRom t) ∧
    ∃ s', core0.absorb (.next (core0.toCoreState, some (.ok 7))) = .next s' :=
  ⟨rfl, fun t => (by intro h; cases h), _, rfl⟩

theorem witness_CommandsAreAnsweredInOrder :
    (core0.setInputs [.call instr0, .call (.dec ⟨63, 0⟩ ⟨64, 0⟩), .assertReset]).Ready ∧
    (core0.setInputs [.call instr0, .call (.dec ⟨63, 0⟩ ⟨64, 0⟩), .assertReset]).inputs =
      [instr0, .dec ⟨63, 0⟩ ⟨64, 0⟩].map .call ++ [.assertReset] :=
  ⟨⟨core0_ready.1, rfl, rfl, rev_range⟩, rfl⟩

theorem witness_EveryRunOfCommandsEnds :
    (core0.setInputs [.call instr0]).Ready ∧ (core0.setInputs [.call instr0]).inputs = [instr0].map .call ∧
    stuck0.fatal = true :=
  ⟨⟨core0_ready.1, rfl, rfl, rev_range⟩, rfl, by decide +kernel⟩

theorem witness_AnswerDependsOnCommandAndTablesOnly :
    core0.Ready ∧ (core0.respond (.ok 7)).Ready ∧ core0.rom = (core0.respond (.ok 7)).rom ∧ core0 ≠ core0.respond (.ok 7) :=
  ⟨core0_ready, ⟨core0_ready.1, rfl, rfl, rev_range⟩, rfl, fun h => by simpa using congrArg State.responses h⟩

theorem witness_InstancesAreIndependent :
    (∃ cs, stepInstance 0 [core0, State.reset] = .next cs) ∧ (∃ cs, stepTwo 0 1 [core0, State.reset] = .next cs) ∧
    (0 : Nat) ≠ 1 ∧ core0 ∈ instancesAfterReset 2 tablesRev :=
  ⟨⟨_, rfl⟩, ⟨_, rfl⟩, by decide, by simp [instancesAfterReset, core0]⟩

theorem witness_EncRespondsWithCryptInOrder :
    (stuck0.inReset = false ∧ stuck0.fatal = true) ∧ (core0.Ready ∧ (⟨63, 0⟩ : Bits).width ≠ 64) ∧
    (core0.Ready ∧ (⟨64, 5⟩ : Bits) = Bits.of (5 : Block)) :=
  ⟨⟨rfl, by decide +kernel⟩, ⟨core0_ready, by decide⟩, core0_ready, rfl⟩

theorem witness_DecRespondsWithCryptReversed :
    (stuck0.inReset = false ∧ stuck0.fatal = true) ∧ (core0.Ready ∧ (⟨65, 0⟩ : Bits).width ≠ 64) ∧
    (core0.Ready ∧ (⟨64, 6⟩ : Bits) = Bits.of (6 : Key)) :=
  ⟨⟨rfl, by decide +kernel⟩, ⟨core0_ready, by decide⟩, core0_ready, rfl⟩

theorem witness_ExecAddsOneResponseAndNothingElse : ∃ s', exec instr0 core0 = .next s' := core0_exec

theorem witness_ExecCompletesExactlyWhenReady : core0.Inv ∧ stuck0.Inv :=
  ⟨core0_inv, ⟨fun _ => rfl, fun _ h => by cases h⟩⟩

theorem witness_BadWidthIsAnsweredWithStatusOne :
    core0.cmdReady = true ∧ (Instr.enc ⟨64, 0⟩ ⟨65, 0⟩).wellFormed = false ∧
    (naturalOperand (2 ^ 64 - 1)).is64 = true ∧ (naturalOperand (2 ^ 64)).is64 = false := by
  decide +kernel

theorem witness_InvalidTableIsFatalAndSilent :
    rangeOk badTables = false ∧ stuck0.Inv ∧ stuck0.inReset = false ∧ stuck0.fatal = true ∧ PortInputs.idle.rst = false :=
  ⟨badTables_range, ⟨fun _ => rfl, fun _ h => by cases h⟩, rfl, by decide +kernel, rfl⟩

/-- V11's pair of inverse tables, and the identity they compose to. -/
theorem witness_PermutationsCompose :
    ∀ (i : Nat) (_ : i < 4), (#v[2, 4, 1, 3] : Vector Nat 4)[(#v[3, 1, 4, 2] : Vector Nat 4)[i] - 1]? =
      some (#v[1, 2, 3, 4] : Vector Nat 4)[i] := by
  decide

theorem witness_FpAndIpUndoEachOther : rangeOk tablesFips = true ∧ ipFpOk tablesFips = true := by decide +kernel

/-- The two clauses for the same rotation amounts, at the schedule's least and greatest. -/
theorem witness_Rotl28IsCircularLeftRotation : ((1 : Nat) = 1 ∨ (1 : Nat) = 2) ∧ ((2 : Nat) = 1 ∨ (2 : Nat) = 2) := by decide

/-- V34: two keys that differ in position 64 only, which PC1 does not name. -/
theorem witness_UnnamedKeyBitsHaveNoEffect :
    (0x0123456789ABCDEF : Key) ≠ 0x0123456789ABCDEE ∧
    ∀ i : Fin 56, mbit (0x0123456789ABCDEF : Key) (fips.pc1.entries[i] - 1) =
      mbit (0x0123456789ABCDEE : Key) (fips.pc1.entries[i] - 1) := by
  decide +kernel

/-- A key with one half all ones and the other 0 under TABLES_FIPS, besides 0 itself. -/
theorem witness_UniformAndComplementedKeys :
    (slice (permute (0xE0E0E0E0F0F0F0F0 : Key) fips.pc1) 28 28 = 0 ∨
      slice (permute (0xE0E0E0E0F0F0F0F0 : Key) fips.pc1) 28 28 = ones 28) ∧
    (slice (permute (0xE0E0E0E0F0F0F0F0 : Key) fips.pc1) 0 28 = 0 ∨
      slice (permute (0xE0E0E0E0F0F0F0F0 : Key) fips.pc1) 0 28 = ones 28) := by
  decide +kernel

/-- The first and the last group of V23's last row: 24 is row 0, column 12, and 39 is row 3, column 3. -/
theorem witness_FIsExpandMixSubstitutePermute :
    ((24#6).toNat = ((permute (0xF0AAF0AA : Half) fips.e ^^^ 0x1B02EFFC7072).toNat >>> (42 - 6 * 0)) % 64 ∧
      (0 : Nat) = 2 * (mbit 24#6 0).toNat + (mbit 24#6 5).toNat ∧
      (12 : Nat) = 8 * (mbit 24#6 1).toNat + 4 * (mbit 24#6 2).toNat + 2 * (mbit 24#6 3).toNat + (mbit 24#6 4).toNat) ∧
    ((39#6).toNat = ((permute (0xF0AAF0AA : Half) fips.e ^^^ 0x1B02EFFC7072).toNat >>> (42 - 6 * 7)) % 64 ∧
      (3 : Nat) = 2 * (mbit 39#6 0).toNat + (mbit 39#6 5).toNat ∧
      (3 : Nat) = 8 * (mbit 39#6 1).toNat + 4 * (mbit 39#6 2).toNat + 2 * (mbit 39#6 3).toNat + (mbit 39#6 4).toNat) := by
  decide +kernel

theorem witness_DecryptionOnlyReversesTheKeyOrder :
    (∀ (r : Nat) (_ : r < 16), encryptOrder[r].val = r) ∧ (∀ (r : Nat) (_ : r < 16), decryptOrder[r].val = 15 - r) := by
  decide

theorem witness_DecryptUndoesEncrypt : rangeOk tablesRev = true ∧ ipFpOk tablesRev = true := ⟨rev_range, rev_ipFp⟩

theorem witness_MachineRoundTrip : core0.Ready ∧ ipFpOk core0.rom = true := ⟨core0_ready, rev_ipFp⟩

/-- The round keys of a key that sets only positions PC1 does not name are all 0 (V20). -/
theorem witness_EqualRoundKeysMakeEncSelfInverse :
    rangeOk tablesFips = true ∧ ipFpOk tablesFips = true ∧
    ∀ i : Fin 16, (generate fips 0x0101010101010101)[i] = (generate fips 0x0101010101010101)[0] := by
  decide +kernel

/-- LATENCY 0, and LATENCY 2 with another command presented meanwhile. -/
theorem witness_PortsRefineTheOperation :
    core0.Ready ∧ (presenting 5).rst = false ∧ (presenting 5).cmdValid = true ∧
    ([] : List PortInputs).length = 0 ∧ [presenting 9, PortInputs.idle].length = 2 ∧
    ∀ q ∈ [presenting 9, PortInputs.idle], q.rst = false :=
  ⟨core0_ready, rfl, rfl, rfl, rfl, by decide⟩

/-- Whatever LATENCY is, that many idle cycles may follow. -/
theorem witness_ClockStepsRefineTheOperation :
    (core0.setInputs ((presenting 5 :: List.replicate Config.latency PortInputs.idle).map .clock ++ [.call instr0])).Ready ∧
    (presenting 5).rst = false ∧ (presenting 5).cmdValid = true ∧
    (List.replicate Config.latency PortInputs.idle).length = Config.latency ∧
    ∀ q ∈ List.replicate Config.latency PortInputs.idle, q.rst = false :=
  ⟨⟨core0_ready.1, rfl, rfl, rev_range⟩, rfl, rfl, List.length_replicate .., fun q h => by
    rw [List.eq_of_mem_replicate h]; rfl⟩

/-- A ready core, a cycle that presents a command with LATENCY 1, and one that presents none. -/
theorem witness_AcceptanceCycleSamplesTheCommand :
    core0.Ready ∧ (presenting 5).rst = false ∧ (presenting 5).cmdValid = true ∧ (1 : Nat) ≠ 0 ∧
    PortInputs.idle.rst = false ∧ PortInputs.idle.cmdValid = false :=
  ⟨core0_ready, rfl, rfl, by decide, rfl, rfl⟩

/-- One operation with cycles left and one with none. -/
theorem witness_PinsWhileBusyAreIgnored :
    ((busy0 3).inFlight = some ⟨1, 3⟩ ∧ (busy0 3).inReset = false ∧ (presenting 5).rst = false ∧ (3 : Nat) ≠ 0) ∧
    ((busy0 0).inFlight = some ⟨1, 0⟩ ∧ (busy0 0).inReset = false ∧ (busy0 0).fatal = false ∧
      rangeOk (busy0 0).rom = true) :=
  ⟨⟨rfl, rfl, rfl, by decide⟩, rfl, rfl, core0_ready.1, rev_range⟩

/-- A due response, and LATENCY = 0 in a ready core. -/
theorem witness_ResponseCycleShowsTheResult :
    ((busy0 0).inFlight = some ⟨1, 0⟩ ∧ (busy0 0).inReset = false ∧ (busy0 0).fatal = false ∧
      rangeOk (busy0 0).rom = true ∧ PortInputs.idle.rst = false) ∧
    (core0.Ready ∧ (presenting 5).rst = false ∧ (presenting 5).cmdValid = true) :=
  ⟨⟨rfl, rfl, core0_ready.1, rev_range, rfl⟩, core0_ready, rfl, rfl⟩

theorem witness_ResponsePortsHoldNoOtherValue :
    (portOutputs 0 PortInputs.idle core0).rspValid = false ∧ Response.invalidInputWidth.status ≠ .ok := by
  decide +kernel

/-- Pins that present a command while `rst` is high. -/
def presentingInReset : PortInputs := { presenting 5 with rst := true }

/-- A reset with a cycle left, and one in the cycle of the response. -/
theorem witness_ResetAbandonsTheOperation :
    (busy0 1).inFlight = some ⟨1, 1⟩ ∧ (busy0 0).inFlight = some ⟨1, 0⟩ ∧ presentingInReset.rst = true :=
  ⟨rfl, rfl, rfl⟩

/-- A reset in the cycle of an acceptance: without `rst` the command would be accepted. -/
theorem witness_ResetWinsOverAcceptanceAndResponse :
    presentingInReset.rst = true ∧ presentingInReset.cmdValid = true ∧ core0.cmdReady = true ∧
    (portOutputs 0 (presenting 5) core0).rspValid = true := by
  decide +kernel

theorem witness_ResetThenReleaseRestartsTheCore :
    ((busy0 1).setInputs [.assertReset, .releaseReset]).inputs = [.assertReset, .releaseReset] ++ [] ∧
    presentingInReset.rst = true ∧ PortInputs.idle.rst = false :=
  ⟨rfl, rfl, rfl⟩

end Sys2Proof.Tests
end

section
/-! The FATAL latch (R16) and the response ports (R17). -/

namespace Sys2Proof.Machine

open Sys2Proof

/-! What each kind of step does to the latch -/

/-- The rule of the latch for one transition: it is a release of reset, and the latch takes RANGE_OK's answer; or it is
none, and the latch keeps its value (R16). -/
def FatalRule (s s' : State) : Prop :=
  (s.inReset = true ∧ s'.inReset = false ∧ s'.fatal = !rangeOk s'.rom) ∨
  (¬(s.inReset = true ∧ s'.inReset = false) ∧ s'.fatal = s.fatal)

section Latch

variable {s s' : State}

theorem fatalRule_of_release (hi : s.inReset = true) : FatalRule s s.releaseReset :=
  .inl ⟨hi, by simp⟩

theorem fatalRule_holdReset (s : State) : FatalRule s s.holdReset :=
  .inr (by simp)

theorem fatalRule_of_same (hf : s'.fatal = s.fatal) (hi : s'.inReset = s.inReset) : FatalRule s s' :=
  .inr ⟨by simp [hi], hf⟩

theorem FatalRule.release (h : FatalRule s s') (hr : s.inReset = true ∧ s'.inReset = false) :
    s'.fatal = !rangeOk s'.rom := by
  obtain ⟨-, -, hf⟩ | ⟨hn, -⟩ := h
  · exact hf
  · exact absurd hr hn

theorem FatalRule.kept (h : FatalRule s s') (hn : ¬(s.inReset = true ∧ s'.inReset = false)) :
    s'.fatal = s.fatal := by
  obtain ⟨hi, hi', -⟩ | ⟨-, hf⟩ := h
  · exact absurd ⟨hi, hi'⟩ hn
  · exact hf

theorem exec_toCoreState {i : Instr} (h : exec i s = .next s') : s'.toCoreState = s.toCoreState := by
  obtain ⟨r, rfl⟩ := exec_next h
  exact s.respond_toCoreState r

theorem clockEdge_fatalRule {L : Nat} {p : PortInputs} (h : clockEdge L p s = .next s') : FatalRule s s' := by
  obtain ⟨-, rfl⟩ | ⟨-, hi, rfl⟩ | ⟨-, -, rfl⟩ | ⟨-, -, -, -, -, -, rfl⟩ | ⟨o, -, -, -, -, rfl⟩ |
    ⟨i, r, -, -, -, rfl⟩ := clockEdge_next h
  case inl => exact fatalRule_holdReset s
  case inr.inl => exact fatalRule_of_release hi
  all_goals exact fatalRule_of_same rfl rfl

theorem runEvent_fatalRule {e : HostEvent} (h : runEvent e s = .next s') : FatalRule s s' := by
  obtain ⟨i, r, -, rfl⟩ | rfl | ⟨t, -, -, rfl⟩ | ⟨hi, rfl⟩ | rfl | ⟨p, -, hp⟩ := runEvent_next h
  · exact fatalRule_of_same rfl rfl
  · exact fatalRule_holdReset s
  · exact fatalRule_of_same rfl rfl
  · exact fatalRule_of_release hi
  · exact fatalRule_of_same rfl rfl
  · exact clockEdge_fatalRule hp

theorem step_fatalRule (h : step s = .next s') : FatalRule s s' := by
  obtain ⟨-, rfl⟩ | ⟨e, rest, -, he⟩ := step_next h
  · exact fatalRule_of_same rfl rfl
  · -- taking the event changes the pending inputs only, which the rule does not read
    have hr : FatalRule (s.setInputs rest) s' := runEvent_fatalRule he
    exact hr

theorem CoreState.cmdReady_of_fatal {c : CoreState} (h : c.fatal = true) : c.cmdReady = false := by
  simp [CoreState.cmdReady, h]

/-- An instruction answers a next state only where `cmd_ready` is 1. -/
theorem exec_next_cmdReady {i : Instr} (h : exec i s = .next s') : s.cmdReady = true :=
  s.toCoreState.blocked_eq_none.1 (exec_next_cases h).1

end Latch

/-! The response ports in a cycle without a response -/

theorem portOutputs_rspValid_eq_false {L : Nat} {p : PortInputs} {s : State} :
    (portOutputs L p s).rspValid = false ↔ portResponse L p s = none := by
  simp [portOutputs]

section NoResponse

variable {L : Nat} {p : PortInputs} {s : State} (h : portResponse L p s = none)
include h

theorem portOutputs_rspStatus_of_none : (portOutputs L p s).rspStatus = none := by
  simp [portOutputs, h]

theorem portOutputs_rspData_of_none : (portOutputs L p s).rspData = none := by
  simp [portOutputs, h]

end NoResponse

theorem PortOutputs.readStatus_of_none {o : PortOutputs} (h : o.rspStatus = none) :
    o.readStatus = .fault .noValueOnPort := by
  simp [PortOutputs.readStatus, h]

theorem PortOutputs.readData_of_none {o : PortOutputs} (h : o.rspData = none) :
    o.readData = .fault .noValueOnPort := by
  simp [PortOutputs.readData, h]

/-- Data goes with status OK only (R17). -/
theorem response_data_eq_none_of_status_ne_ok {r : Response} (h : r.status ≠ .ok) : r.data = none := by
  cases r with
  | ok d => exact absurd rfl h
  | invalidInputWidth => rfl

/-! The statements -/

/-- Settles O5: every step obeys the rule of the latch, and a command never answers while FATAL is 1. -/
theorem fatalChangesOnlyAtRelease : Obligations.FatalChangesOnlyAtRelease := by
  refine ⟨fun _ _ h => ⟨(step_fatalRule h).release, (step_fatalRule h).kept⟩, fun _ _ _ h => ?_, fun _ => rfl,
    fun s hf => ?_⟩
  · rw [exec_toCoreState h]
  · have hc : s.cmdReady = false := CoreState.cmdReady_of_fatal hf
    exact ⟨hc, fun i s' h => Bool.false_ne_true (hc.symm.trans (exec_next_cmdReady h))⟩

/-- Settles O57: `rsp_valid` is 0 exactly where a cycle has no response, and then neither port holds a value. -/
theorem responsePortsHoldNoOtherValue : Obligations.ResponsePortsHoldNoOtherValue := by
  refine ⟨fun L p s hv => ?_, fun _ => response_data_eq_none_of_status_ne_ok⟩
  have hr : portResponse L p s = none := portOutputs_rspValid_eq_false.1 hv
  have hs := portOutputs_rspStatus_of_none hr
  have hd := portOutputs_rspData_of_none hr
  exact ⟨hs, hd, PortOutputs.readStatus_of_none hs, PortOutputs.readData_of_none hd⟩

end Sys2Proof.Machine
end

section
/-! What a step does to the table ROM (R22). -/

namespace Sys2Proof.Machine

open Sys2Proof

section Rom

variable {s s' : State}

/-- The core's answer holds no tables (R13), so taking it over leaves the ROM alone. -/
theorem State.absorb_next_rom {r : CoreResult} (h : s.absorb r = .next s') : s'.rom = s.rom := by
  obtain ⟨c, o, -, rfl⟩ := State.absorb_next h
  rfl

theorem exec_next_rom {i : Instr} (h : exec i s = .next s') : s'.rom = s.rom :=
  State.absorb_next_rom ((exec_eq_absorb i s).symm.trans h)

theorem runEvent_writeRom_of_inReset (t : Tables) (hi : s.inReset = true) :
    runEvent (.writeRom t) s = .next { s with rom := t } := by
  simp [runEvent, State.writeRom, hi]

theorem runEvent_writeRom_of_not_inReset (t : Tables) (hi : s.inReset = false) :
    runEvent (.writeRom t) s = .refused .romChangeOutsideReset := by
  simp [runEvent, State.writeRom, hi]

/-- Every event but the platform's is the core's step, and the platform's is refused out of reset. -/
theorem runEvent_next_rom_of_not_inReset {e : HostEvent} (hi : s.inReset = false)
    (h : runEvent e s = .next s') : s'.rom = s.rom := by
  by_cases he : ∃ t, e = .writeRom t
  · obtain ⟨t, rfl⟩ := he
    rw [runEvent_writeRom_of_not_inReset t hi] at h
    cases h
  · rw [runEvent_eq_absorb (not_exists.1 he)] at h
    exact State.absorb_next_rom h

theorem step_next_rom_of_not_inReset (hi : s.inReset = false) (h : step s = .next s') : s'.rom = s.rom := by
  obtain ⟨-, rfl⟩ | ⟨e, rest, -, he⟩ := step_next h
  · rfl
  · calc
      s'.rom = (s.setInputs rest).rom := runEvent_next_rom_of_not_inReset (s := s.setInputs rest) hi he
      _ = s.rom := s.setInputs_rom rest

end Rom

/-- Settles O6: the core's step answers no tables, so only the platform's own event changes the ROM; that event is refused
out of reset, and in reset the release validates the tables it wrote. -/
theorem romChangesOnlyInReset : Obligations.RomChangesOnlyInReset := by
  refine ⟨fun _ _ _ => exec_next_rom, fun _ _ => step_next_rom_of_not_inReset,
    fun t _ => runEvent_writeRom_of_not_inReset t, fun t s hi => ?_⟩
  exact ⟨{ s with rom := t }, runEvent_writeRom_of_inReset t hi, rfl, CoreState.releaseReset_fatal _ t⟩

end Sys2Proof.Machine
end

section
/-! The command word and what the decoder reads from it (R32 to R35). -/

namespace Sys2Proof

/-! The fields of a word put together from them -/

section Fields

variable (op : BitVec 1) (block : Block) (key : Key)

@[simp] theorem CmdWord.op_append : CmdWord.op (op ++ block ++ key) = op :=
  calc slice (op ++ block ++ key) 128 1
    _ = slice (op ++ block) 64 1 := BitVec.extractLsb'_append_eq_of_le (by decide)
    _ = op := BitVec.extractLsb'_append_eq_left

@[simp] theorem CmdWord.block_append : CmdWord.block (op ++ block ++ key) = block :=
  calc slice (op ++ block ++ key) 64 64
    _ = slice (op ++ block) 0 64 := BitVec.extractLsb'_append_eq_of_le (Nat.le_refl 64)
    _ = block := BitVec.extractLsb'_append_eq_right

@[simp] theorem CmdWord.key_append : CmdWord.key (op ++ block ++ key) = key :=
  BitVec.extractLsb'_append_eq_right

end Fields

/-! The rows of the operation table: each asks for one value of the bit `op` -/

theorem opAt128_inj {a b : BitVec 1} : opAt128 a = opAt128 b ↔ a = b := by
  rw [opAt128, opAt128, BitVec.append_left_inj, BitVec.append_left_inj]

/-- The mask of both rows keeps `op` and clears the operands. -/
theorem and_opAt128_one (w : CmdWord) : w &&& opAt128 1 = opAt128 (CmdWord.op w) := by
  have hop : CmdWord.op w &&& 1 = CmdWord.op w := BitVec.and_allOnes
  have hzero (v : BitVec 64) : v &&& 0 = 0 := BitVec.and_zero
  conv_lhs => rw [← CmdWord.fields w]
  rw [opAt128, BitVec.and_append, BitVec.and_append, hop, hzero, hzero, opAt128]

/-- A row whose mask is the bit `op` matches the words whose `op` is the one of its pattern. -/
theorem and_opAt128_one_beq (w : CmdWord) (op : BitVec 1) :
    (w &&& opAt128 1 == opAt128 op) = (CmdWord.op w == op) := by
  rw [Bool.eq_iff_iff, beq_iff_eq, beq_iff_eq, and_opAt128_one, opAt128_inj]

theorem rowEnc_hits (w : CmdWord) : rowEnc.hits w = (CmdWord.op w == 0) :=
  and_opAt128_one_beq w 0

theorem rowDec_hits (w : CmdWord) : rowDec.hits w = (CmdWord.op w == 1) :=
  and_opAt128_one_beq w 1

/-- The row of a value of `op`. -/
def rowOf (op : BitVec 1) : OpRow := if op = 0 then rowEnc else rowDec

/-- The rows that a word matches: the row of its `op` and no other (R34). -/
theorem filter_hits (w : CmdWord) : (opRows.filter fun r => r.hits w) = [rowOf (CmdWord.op w)] := by
  rcases BitVec.eq_zero_or_eq_one (CmdWord.op w) with h | h <;>
    simp [opRows, rowEnc_hits, rowDec_hits, rowOf, h]

/-- The command of a word: its `op` chooses the operation, the operands are its two fields (R32, R35). -/
def commandOf (w : CmdWord) : Instr :=
  (rowOf (CmdWord.op w)).build (Bits.of (CmdWord.block w)) (Bits.of (CmdWord.key w))

theorem decodeCmd_eq (w : CmdWord) : decodeCmd w = some (commandOf w) := by
  have hfind : (opRows.find? fun r => r.hits w) = some (rowOf (CmdWord.op w)) := by
    rw [← List.head?_filter, filter_hits, List.head?_cons]
  rw [decodeCmd, hfind]
  rfl

theorem decode_of (w : CmdWord) : decode (Bits.of w) = .ok (commandOf w) := by
  simp [decode, decodeCmd_eq]

theorem commandOf_append (op : BitVec 1) (block : Block) (key : Key) :
    commandOf (op ++ block ++ key) =
      if op = 0 then .enc (Bits.of block) (Bits.of key) else .dec (Bits.of block) (Bits.of key) := by
  simp only [commandOf, rowOf, CmdWord.op_append, CmdWord.block_append, CmdWord.key_append]
  split <;> rfl

theorem commandOf_block (w : CmdWord) : (commandOf w).block = Bits.of (CmdWord.block w) := by
  unfold commandOf rowOf
  split <;> rfl

theorem commandOf_key (w : CmdWord) : (commandOf w).key = Bits.of (CmdWord.key w) := by
  unfold commandOf rowOf
  split <;> rfl

/-- Settles O11: the mask keeps `op` alone, so a word matches the row of its `op` and no other, and that row takes the two
operand fields verbatim. -/
theorem commandWordIsOpBlockKey : Obligations.CommandWordIsOpBlockKey := by
  intro op block key
  constructor
  · rw [decode_of, commandOf_append]
  · rw [filter_hits, List.length_singleton]

end Sys2Proof
end

section
/-! The response word (R33), and the responses of the fixed-width ports. -/

namespace Sys2Proof

theorem Response.word_ok (d : Block) : (Response.ok d).word = some (Status.code .ok ++ d) := rfl

theorem decodeRsp_of_status_ok {w : RspWord} (h : slice w 64 2 = Status.code .ok) :
    decodeRsp w = some (.ok (slice w 0 64)) :=
  if_pos h

theorem decodeRsp_eq_none (w : RspWord) :
    decodeRsp w = none ↔ slice w 64 2 ≠ Status.code .ok ∧ slice w 64 2 ≠ Status.code .invalidInputWidth := by
  unfold decodeRsp
  split_ifs <;> simp [*]

/-- Two bits that are the code of neither response are 2 or 3. -/
theorem status_not_in_response_iff (c : BitVec 2) :
    (c ≠ Status.code .ok ∧ c ≠ Status.code .invalidInputWidth) ↔ c = 2 ∨ c = 3 := by
  revert c
  decide

end Sys2Proof

namespace Sys2Proof.Machine

open Sys2Proof

/-- The operands of a command word always pass the width check (R35). -/
theorem operands64_commandOf (w : CmdWord) :
    operands64 (commandOf w).block (commandOf w).key = some (CmdWord.block w, CmdWord.key w) := by
  rw [commandOf_block, commandOf_key, operands64_of]

/-- A 129-bit word that a core answers is answered with status 0. -/
theorem coreWord_of_next_status {t : Tables} {w : CmdWord} {c c' : CoreState} {o : Option Response}
    (h : coreWord t (Bits.of w) c = .next (c', o)) : ∃ d, o = some (.ok d) := by
  obtain ⟨i, hi, he⟩ := coreWord_next h
  obtain rfl : commandOf w = i := Except.ok.inj ((decode_of w).symm.trans hi)
  rw [coreExec_eq] at he
  obtain ⟨-, ⟨hw, -⟩ | ⟨b, k, ht, -, ha⟩⟩ := operate_next he
  · rw [operands64_commandOf] at hw
    cases hw
  · exact ⟨_, congrArg Prod.snd ha⟩

/-- A clock cycle with a response is one that runs a command word of the ports. -/
theorem coreClock_response {L : Nat} {t : Tables} {p : PortInputs} {c c' : CoreState} {r : Response}
    (h : coreClock L t p c = .next (c', some r)) :
    ∃ w : CmdWord, coreWord t (Bits.of w) (c.setInFlight none) = .next (c', some r) := by
  unfold coreClock at h
  cases ha : portAction L p c with
  | respond w => exact ⟨w, by simpa only [ha] using h⟩
  | hold | release | idle | accept w | wait o => simp [ha] at h

theorem portResponse_eq_some {L : Nat} {p : PortInputs} {s : State} {r : Response} (h : portResponse L p s = some r) :
    ∃ c', coreClock L s.rom p s.toCoreState = .next (c', some r) := by
  unfold portResponse at h
  split at h
  · rename_i c' o hc
    exact ⟨c', h ▸ hc⟩
  · cases h

theorem portResponse_status {L : Nat} {p : PortInputs} {s : State} {r : Response} (h : portResponse L p s = some r) :
    r.status = .ok := by
  obtain ⟨c', hc⟩ := portResponse_eq_some h
  obtain ⟨w, hw⟩ := coreClock_response hc
  obtain ⟨d, hd⟩ := coreWord_of_next_status hw
  cases hd
  rfl

/-- Settles O15: the two fields read back, and a response of the ports answers a 129-bit word, whose operands cannot have
another width than 64. -/
theorem responseWordIsStatusAndData : Obligations.ResponseWordIsStatusAndData := by
  refine ⟨fun d => ?_, ⟨rfl, rfl, rfl⟩, fun w => ?_, fun L p s r h => ?_⟩
  · have hs : slice (Status.code .ok ++ d) 64 2 = Status.code .ok := BitVec.extractLsb'_append_eq_left
    have hd : slice (Status.code .ok ++ d) 0 64 = d := BitVec.extractLsb'_append_eq_right
    exact ⟨_, Response.word_ok d, hs, hd, by rw [decodeRsp_of_status_ok hs, hd]⟩
  · exact (decodeRsp_eq_none w).trans (status_not_in_response_iff _)
  · rw [portResponse_status h]
    rfl

end Sys2Proof.Machine
end

section
/-! RANGE_OK, entry by entry (R43). -/

namespace Sys2Proof.Machine

open Sys2Proof

/-- The range check of one table, read at its indices (R43). -/
theorem inRange_toList_iff {N M : Nat} (t : Vector Nat M) :
    inRange N t.toList = true ↔ ∀ i : Fin M, 1 ≤ t[i] ∧ t[i] ≤ N := by
  rw [inRange, Vector.all_toList, Vector.all_iff_forall, Fin.forall_iff]
  simp only [Bool.and_eq_true, decide_eq_true_eq, Fin.getElem_fin]

/-- Settles O8: reset sets the latch to the negation of RANGE_OK, and each of RANGE_OK's six clauses is the range check of
one table. -/
theorem rangeOkIsEveryEntryInRange : Obligations.RangeOkIsEveryEntryInRange := by
  refine ⟨fun t => ?_, fun t => ?_⟩
  · rw [State.afterReset_toCoreState, CoreState.afterReset_fatal, Bool.not_eq_true']
  · simp only [rangeOk_iff, inRange_toList_iff]

end Sys2Proof.Machine
end

section
/-! `permute` in the two bit numberings (R40, R8). -/

namespace Sys2Proof.Machine

open Sys2Proof

/-- Position j from the most significant bit is bit `W - 1 - j` from the least significant one (R8). -/
theorem mbit_eq_getLsbD {W : Nat} (v : BitVec W) {j : Nat} (h : j < W) : mbit v j = v.getLsbD (W - 1 - j) := by
  rw [mbit, BitVec.getMsbD_eq_getLsbD, decide_eq_true h, Bool.true_and]

/-- Settles O32: the MSB-first form is `permute_mbit`; an entry in range names a position of the input, so the form in LSB-0
slices is the same equation with both positions counted from the other end. -/
theorem permuteCopiesTheNamedBits : Obligations.PermuteCopiesTheNamedBits := by
  intro N M x t i h
  have hbit := permute_mbit x t i h
  obtain ⟨hpos, hle⟩ := t.entry_range i h
  have hin : t.entries[i] - 1 < N := by omega
  have hlsb : N - 1 - (t.entries[i] - 1) = N - t.entries[i] := by omega
  refine ⟨hbit, ?_⟩
  calc (permute x t).getLsbD (M - 1 - i)
    _ = mbit (permute x t) i := (mbit_eq_getLsbD _ h).symm
    _ = mbit x (t.entries[i] - 1) := hbit
    _ = x.getLsbD (N - t.entries[i]) := by rw [mbit_eq_getLsbD x hin, hlsb]

end Sys2Proof.Machine
end

section
/-! `rotl28` as the rotation of 28-bit strings (R55). -/

namespace Sys2Proof.Machine

open Sys2Proof

section Rotation

variable (v : KeyHalf)

/-- The shift and wrap is the library's rotation, whose bits the library describes. -/
theorem rotl28_eq_rotateLeft {s : Nat} (hs : s < 28) : rotl28 v s = v.rotateLeft s := by
  rw [BitVec.rotateLeft_def, Nat.mod_eq_of_lt hs, rotl28]

/-- Position i, counted from the most significant bit, holds what was s positions further right, cyclically. -/
theorem rotl28_mbit {s i : Nat} (hs : s < 28) (hi : i < 28) : mbit (rotl28 v s) i = mbit v ((s + i) % 28) := by
  rw [rotl28_eq_rotateLeft v hs, mbit, BitVec.getMsbD_rotateLeft, decide_eq_true hi, Bool.true_and]

/-- Two rotations in a row are one by the sum of the amounts. -/
theorem rotl28_rotl28 {a b : Nat} (h : a + b < 28) : rotl28 (rotl28 v a) b = rotl28 v (a + b) := by
  refine eq_of_mbit_eq fun i hi => ?_
  have hmod : (b + i) % 28 < 28 := Nat.mod_lt _ (by decide)
  rw [rotl28_mbit _ (by omega) hi, rotl28_mbit v (by omega) hmod, rotl28_mbit v h hi, Nat.add_mod_mod, Nat.add_assoc]

/-- The top s bits, which the shift loses, become the lowest ones. -/
theorem rotl28_eq_append {n s : Nat} (hn : 0 < n) (h : n + s = 28) :
    rotl28 v s = (slice v 0 n ++ slice v n s).cast h := by
  refine BitVec.eq_of_getLsbD_eq fun i hi => ?_
  have hs : s < 28 := by omega
  have hw : 28 - s = n := by omega
  rw [rotl28_eq_rotateLeft v hs, BitVec.getLsbD_rotateLeft, Nat.mod_eq_of_lt hs, hw, BitVec.getLsbD_cast,
    BitVec.getLsbD_append]
  by_cases hlow : i < s
  · simp [hlow]
  · have hrest : i - s < n := by omega
    simp [hlow, hi, hrest]

/-- As numbers: shift left, OR in the bits that overflowed, mask to 28 bits. -/
theorem rotl28_toNat (s : Nat) : (rotl28 v s).toNat = ((v.toNat <<< s) ||| (v.toNat >>> (28 - s))) % 2 ^ 28 := by
  have hwrap : v.toNat >>> (28 - s) < 2 ^ 28 := Nat.lt_of_le_of_lt (Nat.shiftRight_le _ _) v.isLt
  rw [rotl28, BitVec.toNat_or, BitVec.toNat_shiftLeft, BitVec.toNat_ushiftRight, Nat.or_mod_two_pow,
    Nat.mod_eq_of_lt hwrap]

end Rotation

/-- Settles O37: for each amount the rotation swaps the two parts of the half around the cut, two single steps add up to
a double one, and the arithmetic form holds for every amount. -/
theorem rotl28IsCircularLeftRotation : Obligations.Rotl28IsCircularLeftRotation := by
  intro v
  have hone : rotl28 v 1 = slice v 0 27 ++ slice v 27 1 := rotl28_eq_append v (by decide) rfl
  have htwo : rotl28 v 2 = slice v 0 26 ++ slice v 26 2 := rotl28_eq_append v (by decide) rfl
  have hdouble : rotl28 (rotl28 v 1) 1 = rotl28 v 2 := rotl28_rotl28 v (by decide)
  exact ⟨hone, htwo, hdouble.symm, fun s _ => rotl28_toNat v s⟩

end Sys2Proof.Machine
end

section
/-! The halves of the key schedule, round by round (R52 to R58). -/

namespace Sys2Proof.Machine

open Sys2Proof

/-- C and D after the first i rotations of the schedule. -/
def halvesAfter (t : CheckedTables) (key : Key) (i : Nat) : KeyHalves :=
  (shifts.toList.take i).foldl rotateHalves (startHalves t key)

/-- SHIFTS in closed form (R56). -/
theorem shifts_getElem : ∀ (i : Nat) (_ : i < 16),
    shifts[i] = if i = 0 ∨ i = 1 ∨ i = 8 ∨ i = 15 then 1 else 2 := by
  decide

section Schedule

variable (t : CheckedTables) (key : Key)

theorem halvesAfter_zero : halvesAfter t key 0 = startHalves t key := rfl

/-- Each round rotates the halves that the round before left (R57). -/
theorem halvesAfter_succ {i : Nat} (hi : i < 16) :
    halvesAfter t key (i + 1) = rotateHalves (halvesAfter t key i) shifts[i] := by
  have htake : shifts.toList.take (i + 1) = shifts.toList.take i ++ [shifts[i]] :=
    List.take_succ_eq_append_getElem (l := shifts.toList) hi
  rw [halvesAfter, htake, List.foldl_concat, halvesAfter]

/-- Round key i is made from the halves after rotation i, not before it (R58). -/
theorem generate_getElem_eq_roundKeyOf {i : Nat} (hi : i < 16) :
    (generate t key)[i] = roundKeyOf t (halvesAfter t key (i + 1)) :=
  generate_getElem t key i hi

end Schedule

/-- Settles O38: the halves after each rotation are the c and d of the statement. -/
theorem generateFollowsTheSchedule : Obligations.GenerateFollowsTheSchedule := by
  intro t key
  have hstart := halvesAfter_zero t key
  refine ⟨fun i => (halvesAfter t key i).c, fun i => (halvesAfter t key i).d, congrArg KeyHalves.c hstart,
    congrArg KeyHalves.d hstart, fun i hi => ?_⟩
  have hstep := halvesAfter_succ t key hi
  rw [shifts_getElem i hi] at hstep
  exact ⟨congrArg KeyHalves.c hstep, congrArg KeyHalves.d hstep, generate_getElem_eq_roundKeyOf t key hi⟩

end Sys2Proof.Machine
end

section
/-! The F-function with its row and column read bit by bit (R65 to R71). -/

namespace Sys2Proof.Machine

open Sys2Proof

/-- Group g as a number: the mixed value without what stands below the group, modulo 64 (R68). -/
theorem group_toNat (x : RoundKey) (g : Fin 8) : (group x g).toNat = (x.toNat >>> (42 - 6 * g.val)) % 64 :=
  BitVec.extractLsb'_toNat _ _ x

/-- The row's digits are b0 and b5 (R69). -/
theorem sboxRow_toNat : ∀ v : BitVec 6, (sboxRow v).toNat = 2 * (mbit v 0).toNat + (mbit v 5).toNat := by
  decide

/-- The column's digits are b1, b2, b3 and b4 (R69). -/
theorem sboxColumn_toNat : ∀ v : BitVec 6, (sboxColumn v).toNat =
    8 * (mbit v 1).toNat + 4 * (mbit v 2).toNat + 2 * (mbit v 3).toNat + (mbit v 4).toNat := by
  decide

/-- Whatever group value, row and column satisfy the arithmetic of R68 and R69 address the nibble of group g (R70). -/
theorem nibble_eq_getElem (t : CheckedTables) (x : RoundKey) {g : Fin 8} {v : BitVec 6} {row : Fin 4} {column : Fin 16}
    (hv : v.toNat = (x.toNat >>> (42 - 6 * g.val)) % 64)
    (hrow : row.val = 2 * (mbit v 0).toNat + (mbit v 5).toNat)
    (hcolumn : column.val = 8 * (mbit v 1).toNat + 4 * (mbit v 2).toNat + 2 * (mbit v 3).toNat + (mbit v 4).toNat) :
    nibble t x g = t.sbox[g][row][column] := by
  have hgroup : group x g = v := BitVec.eq_of_toNat_eq ((group_toNat x g).trans hv.symm)
  have hr : (sboxRow v).toFin = row := Fin.ext ((sboxRow_toNat v).trans hrow.symm)
  have hc : (sboxColumn v).toFin = column := Fin.ext ((sboxColumn_toNat v).trans hcolumn.symm)
  rw [nibble, hgroup, hr, hc, sboxRead]

/-- F permutes by P what the boxes make of the expanded and mixed half (R65, R71). -/
theorem feistelF_eq_permute_substitute (t : CheckedTables) (r : Half) (k : RoundKey) :
    feistelF t r k = permute (substitute t (permute r t.e ^^^ k)) t.p := rfl

/-- Settles O42: the substitution's output is the s of the statement; its nibble g is what box g yields at the group's row
and column. -/
theorem fIsExpandMixSubstitutePermute : Obligations.FIsExpandMixSubstitutePermute := by
  intro t r k
  refine ⟨substitute t (permute r t.e ^^^ k), fun g v row column hv hrow hcolumn => ?_,
    feistelF_eq_permute_substitute t r k⟩
  rw [slice_substitute, nibble_eq_getElem t _ hv hrow hcolumn]

end Sys2Proof.Machine
end

section
/-! The operations on a ready core, with the answer each command gets (R81, R82, R92). -/

namespace Sys2Proof.Machine

open Sys2Proof

/-- Out of reset, FATAL is the reason a core is blocked, whether or not an operation is in progress (R112). -/
theorem CoreState.blocked_of_fatal {c : CoreState} (hr : c.inReset = false) (hf : c.fatal = true) :
    c.blocked = some .invalidTable := by
  simp [CoreState.blocked, hr, hf]

theorem State.Ready.blocked {s : State} (h : s.Ready) : s.blocked = none := by
  simp [CoreState.blocked, h.notInReset, h.notFatal, h.notBusy]

/-- One operand of another width than 64 is enough to fail the width check (R111). -/
theorem operands64_eq_none_of_width {block key : Bits} (h : block.width ≠ 64 ∨ key.width ≠ 64) :
    operands64 block key = none := by
  rw [operands64_eq_none, Bool.and_eq_false_iff]
  exact h.imp beq_false_of_ne beq_false_of_ne

section Answer

variable {t : CheckedTables} {i : Instr}

theorem answer_badWidth (hw : operands64 i.block i.key = none) : answer t i = .invalidInputWidth := by
  simp only [answer, hw]

theorem answer_ok {b : Block} {k : Key} (hw : operands64 i.block i.key = some (b, k)) :
    answer t i = .ok (valueOf i t b k) := by
  cases i <;> simp only [answer, hw, valueOf]

end Answer

/-- A ready core gives a command its answer over the ROM's tables, and does nothing else. -/
theorem exec_of_ready (i : Instr) {s : State} (h : s.Ready) :
    exec i s = .next (s.respond (answer (checkedTables s.rom h.tables) i)) := by
  cases hw : operands64 i.block i.key with
  | none => rw [exec_badWidth h.blocked hw, answer_badWidth hw]
  | some bk => rw [exec_ok h.blocked hw h.tables, answer_ok hw]

/-- Settles O24: the response is `answer`, which reads the command and the tables and nothing else of the state. -/
theorem answerDependsOnCommandAndTablesOnly : Obligations.AnswerDependsOnCommandAndTablesOnly := by
  intro i s s' h h' hrom
  have htables : checkedTables s'.rom h'.tables = checkedTables s.rom h.tables := by simp only [hrom]
  exact ⟨answer (checkedTables s.rom h.tables) i, exec_of_ready i h, htables ▸ exec_of_ready i h'⟩

section Forms

variable {i : Instr} {s : State}

theorem exec_of_fatal (hr : s.inReset = false) (hf : s.fatal = true) : exec i s = .fault .invalidTable :=
  exec_blocked (CoreState.blocked_of_fatal hr hf)

theorem exec_of_width (h : s.Ready) (hw : i.block.width ≠ 64 ∨ i.key.width ≠ 64) :
    exec i s = .next (s.respond .invalidInputWidth) :=
  exec_badWidth h.blocked (operands64_eq_none_of_width hw)

theorem exec_of_operands (h : s.Ready) {b : Block} {k : Key} (hb : i.block = Bits.of b) (hk : i.key = Bits.of k) :
    exec i s = .next (s.respond (.ok (valueOf i (checkedTables s.rom h.tables) b k))) :=
  exec_ok h.blocked (by rw [hb, hk, operands64_of]) h.tables

end Forms

/-- Settles O26: the three forms of a command's step; the value of ENC is `crypt` at `encryptOrder`. -/
theorem encRespondsWithCryptInOrder : Obligations.EncRespondsWithCryptInOrder := fun _ block key =>
  ⟨exec_of_fatal, exec_of_width (i := .enc block key), fun h _ _ => exec_of_operands (i := .enc block key) h⟩

/-- Settles O27: the same three forms; the value of DEC is `crypt` at `decryptOrder`. -/
theorem decRespondsWithCryptReversed : Obligations.DecRespondsWithCryptReversed := fun _ block key =>
  ⟨exec_of_fatal, exec_of_width (i := .dec block key), fun h _ _ => exec_of_operands (i := .dec block key) h⟩

end Sys2Proof.Machine
end

section
/-! `crypt` round by round, and the orders of the two operations (R80, R83 to R87). -/

namespace Sys2Proof.Machine

open Sys2Proof

/-- L and R after the first n rounds of `crypt`. -/
def halvesAfterRounds (t : CheckedTables) (block : Block) (key : Key) (order : Vector (Fin 16) 16) (n : Nat) : Halves :=
  rounds t ((consumed (generate t key) order).take n) (startRounds t block)

section Rounds

variable (keys : Vector RoundKey 16) (t : CheckedTables) (block : Block) (key : Key) (order : Vector (Fin 16) 16)

theorem consumed_length : (consumed keys order).length = 16 := by
  simp only [consumed, List.length_map, Vector.length_toList]

/-- Position n of the keys consumed is the round key that the order names for round n (R80). -/
theorem consumed_getElem {n : Nat} (hn : n < 16) :
    (consumed keys order)[n]'(by rwa [consumed_length]) = keys[order[n]] := by
  simp only [consumed, List.getElem_map, Vector.getElem_toList]

theorem halvesAfterRounds_zero : halvesAfterRounds t block key order 0 = startRounds t block := rfl

/-- Each round works on the halves that the round before left (R84). -/
theorem halvesAfterRounds_succ {n : Nat} (hn : n < 16) :
    halvesAfterRounds t block key order (n + 1) =
      round t (halvesAfterRounds t block key order n) (generate t key)[order[n]] := by
  have hlen : n < (consumed (generate t key) order).length := by rwa [consumed_length]
  rw [halvesAfterRounds, List.take_succ_eq_append_getElem hlen, rounds_append, consumed_getElem _ _ hn]
  rfl

/-- `crypt` finishes on the halves after sixteen rounds (R85, R86). -/
theorem crypt_eq_finish : crypt t block key order = finish t (halvesAfterRounds t block key order 16) := by
  rw [crypt, halvesAfterRounds, List.take_of_length_le (consumed_length _ _).le]

end Rounds

/-- Settles O45: the halves after each round are the l and r of the statement. -/
theorem cryptIsSixteenFeistelRounds : Obligations.CryptIsSixteenFeistelRounds := by
  intro t block key order
  have hstart := halvesAfterRounds_zero t block key order
  refine ⟨fun n => (halvesAfterRounds t block key order n).l, fun n => (halvesAfterRounds t block key order n).r,
    congrArg Halves.l hstart, congrArg Halves.r hstart, fun n hn => ?_, crypt_eq_finish t block key order⟩
  have hstep := halvesAfterRounds_succ t block key order hn
  exact ⟨congrArg Halves.l hstep, congrArg Halves.r hstep⟩

theorem encryptOrder_getElem : ∀ (r : Nat) (_ : r < 16), encryptOrder[r].val = r := by
  decide

theorem decryptOrder_getElem : ∀ (r : Nat) (_ : r < 16), decryptOrder[r].val = 15 - r := by
  decide

/-- An order is known by the key number it names for each round. -/
theorem order_ext {o o' : Vector (Fin 16) 16} (h : ∀ (r : Nat) (_ : r < 16), o[r].val = o'[r].val) : o = o' :=
  Vector.ext fun r hr => Fin.ext (h r hr)

/-- Settles O46: an order with the named entries is the order of the operation, and the rest of `crypt` is shared. -/
theorem decryptionOnlyReversesTheKeyOrder : Obligations.DecryptionOnlyReversesTheKeyOrder := by
  intro t block key order
  refine ⟨fun h => ?_, fun h => ?_⟩
  · have horder : encryptOrder = order := order_ext fun r hr => (encryptOrder_getElem r hr).trans (h r hr).symm
    rw [encrypt, horder]
  · have horder : decryptOrder = order := order_ext fun r hr => (decryptOrder_getElem r hr).trans (h r hr).symm
    rw [decrypt, horder]

end Sys2Proof.Machine
end

section
/-! FP and IP as inverses (R44, R48). -/

namespace Sys2Proof.Machine

open Sys2Proof Function

/-- The clause `IP[FP[j-1] - 1] = j`, at a 0-based index of FP (R44). -/
theorem ip_getElem?_fp {t : Tables} (h : fpInvertsIp t = true) {i : Nat} (hi : i < 64) :
    t.ip[t.fp[i] - 1]? = some (i + 1) := by
  rw [fpInvertsIp, List.all_eq_true] at h
  have hj := h (i + 1) (List.mem_range'_1.mpr (by omega))
  simpa [hi] using hj

/-- FP undoes IP: output position i of the two in a row is input position `IP[FP[i] - 1] - 1`, which is i. -/
theorem permute_fp_leftInverse_ip (t : Tables) (h : rangeOk t = true) (hfp : fpInvertsIp t = true) :
    LeftInverse (permute · (checkedTables t h).fp) (permute · (checkedTables t h).ip) := by
  intro x
  refine eq_of_mbit_eq fun i hi => ?_
  have hentry : 1 ≤ t.fp[i] ∧ t.fp[i] ≤ 64 := (checkedTables t h).fp.entry_range i hi
  have hin : t.fp[i] - 1 < 64 := by omega
  have hip : t.ip[t.fp[i] - 1] = i + 1 := by
    have := ip_getElem?_fp hfp hi
    rwa [Vector.getElem?_eq_getElem hin, Option.some.injEq] at this
  calc mbit (permute (permute x (checkedTables t h).ip) (checkedTables t h).fp) i
    _ = mbit (permute x (checkedTables t h).ip) (t.fp[i] - 1) := permute_mbit _ _ i hi
    _ = mbit x (t.ip[t.fp[i] - 1] - 1) := permute_mbit _ _ _ hin
    _ = mbit x i := by rw [hip, Nat.add_sub_cancel]

/-- IP undoes FP: there are finitely many blocks, so the inverse from one side is one from the other. -/
theorem permute_fp_rightInverse_ip (t : Tables) (h : rangeOk t = true) (hfp : fpInvertsIp t = true) :
    RightInverse (permute · (checkedTables t h).fp) (permute · (checkedTables t h).ip) :=
  have hleft := permute_fp_leftInverse_ip t h hfp
  hleft.rightInverse_of_surjective (Finite.injective_iff_surjective.mp hleft.injective)

end Sys2Proof.Machine
end

section
/-! The round trip (R91): the rounds of decryption take back those of encryption, last one first, on swapped halves. -/

namespace Sys2Proof.Machine

open Sys2Proof Function

/-- L and R exchanged: what the final combine does (R85). -/
def Halves.swap (h : Halves) : Halves := ⟨h.r, h.l⟩

@[simp] theorem Halves.swap_swap (h : Halves) : h.swap.swap = h := rfl

/-- The two halves as one block, L high (R83). -/
def Halves.join (h : Halves) : Block := h.l ++ h.r

/-- `crypt` with the round keys given as the list that the rounds consume. -/
def pass (t : CheckedTables) (ks : List RoundKey) (block : Block) : Block :=
  finish t (rounds t ks (startRounds t block))

section Feistel

variable {t : CheckedTables}

/-- Splitting a block as the rounds do, and joining the halves again (R83). -/
theorem startRounds_join (b : Block) : (startRounds t b).join = permute b t.ip :=
  calc (slice (permute b t.ip) 32 32 ++ slice (permute b t.ip) 0 32 : Block)
    _ = slice (permute b t.ip) 0 64 := BitVec.extractLsb'_append_extractLsb'_eq_extractLsb' rfl
    _ = permute b t.ip := BitVec.extractLsb'_eq_self

/-- Joined halves come apart as they were. -/
theorem startRounds_eq {b : Block} {h : Halves} (hb : permute b t.ip = h.join) : startRounds t b = h := by
  have hl : slice h.join 32 32 = h.l := BitVec.extractLsb'_append_eq_left
  have hr : slice h.join 0 32 = h.r := BitVec.extractLsb'_append_eq_right
  rw [startRounds, hb, hl, hr]

/-- The final combine is FP of the swapped halves (R85, R86). -/
theorem finish_eq (h : Halves) : finish t h = permute h.swap.join t.fp := rfl

/-- A round with the same key on the swapped halves takes the round back, whatever F is. -/
theorem round_swap_round (h : Halves) (k : RoundKey) : round t (round t h k).swap k = h.swap := by
  have hcancel : h.l ^^^ feistelF t h.r k ^^^ feistelF t h.r k = h.l := by
    rw [BitVec.xor_assoc, BitVec.xor_self, BitVec.xor_zero]
  exact congrArg (Halves.mk h.r) hcancel

/-- The same keys in the reverse order, on the swapped halves, take all the rounds back. -/
theorem rounds_reverse_swap_rounds (ks : List RoundKey) (h : Halves) :
    rounds t ks.reverse (rounds t ks h).swap = h.swap := by
  induction ks generalizing h with
  | nil => rfl
  | cons k ks ih =>
    rw [rounds_cons, List.reverse_cons, rounds_append, ih, rounds_cons, rounds_nil, round_swap_round]

/-- Where FP and IP are inverses of each other, a pass with the keys in the reverse order undoes a pass. -/
theorem pass_reverse_pass (hleft : LeftInverse (permute · t.fp) (permute · t.ip))
    (hright : RightInverse (permute · t.fp) (permute · t.ip)) (ks : List RoundKey) (b : Block) :
    pass t ks.reverse (pass t ks b) = b := by
  have hstart (h : Halves) : startRounds t (finish t h) = h.swap := startRounds_eq (hright h.swap.join)
  calc pass t ks.reverse (pass t ks b)
    _ = finish t (startRounds t b).swap := by rw [pass, pass, hstart, rounds_reverse_swap_rounds]
    _ = permute (permute b t.ip) t.fp := by rw [finish_eq, Halves.swap_swap, startRounds_join]
    _ = b := hleft b

end Feistel

section Operations

variable (t : CheckedTables) (b : Block) (k : Key)

theorem crypt_eq_pass (order : Vector (Fin 16) 16) : crypt t b k order = pass t (consumed (generate t k) order) b := rfl

theorem encrypt_eq_pass : encrypt t b k = pass t (generate t k).toList b := by
  rw [encrypt, crypt_eq_pass, consumed_encryptOrder]

theorem decrypt_eq_pass : decrypt t b k = pass t (generate t k).toList.reverse b := by
  rw [decrypt, crypt_eq_pass, consumed_decryptOrder]

end Operations

/-- Settles O47: each operation is a pass whose keys are those of the other in the reverse order. -/
theorem decryptUndoesEncrypt : Obligations.DecryptUndoesEncrypt := by
  intro t h hok b k
  obtain ⟨-, hfp⟩ := Bool.and_eq_true_iff.mp hok
  have hleft := permute_fp_leftInverse_ip t h hfp
  have hpass := pass_reverse_pass hleft (permute_fp_rightInverse_ip t h hfp)
  refine ⟨?_, ?_⟩
  · rw [encrypt_eq_pass, decrypt_eq_pass]
    exact hpass _ b
  · have hback := hpass (generate (checkedTables t h) k).toList.reverse b
    rwa [List.reverse_reverse, ← decrypt_eq_pass, ← encrypt_eq_pass] at hback

end Sys2Proof.Machine
end

section
/-! The width error (R111): which natural numbers are 64-bit operands, and the answer to an operand of another width. -/

namespace Sys2Proof.Machine

open Sys2Proof

section Natural

variable {n : Nat}

theorem naturalOperand_of_lt (h : n < 2 ^ 64) : naturalOperand n = ⟨64, BitVec.ofNat 64 n⟩ :=
  if_pos h

theorem naturalOperand_of_ge (h : 2 ^ 64 ≤ n) : naturalOperand n = ⟨n.log2 + 1, BitVec.ofNat (n.log2 + 1) n⟩ :=
  if_neg (Nat.not_lt.2 h)

end Natural

/-- A natural number passes the width check exactly when 64 bits can hold it (R111). -/
theorem naturalOperand_is64 (n : Nat) : (naturalOperand n).is64 = true ↔ n < 2 ^ 64 := by
  rcases Nat.lt_or_ge n (2 ^ 64) with h | h
  · exact iff_of_true (by rw [naturalOperand_of_lt h]; rfl) h
  · have hlog : 64 ≤ n.log2 := (Nat.le_log2 (by omega)).2 h
    have hw : n.log2 + 1 ≠ 64 := by omega
    refine iff_of_false ?_ (Nat.not_lt.2 h)
    rw [naturalOperand_of_ge h, Bits.is64, beq_iff_eq]
    exact hw

/-- A natural number is presented as itself: neither form truncates it (R111). -/
theorem naturalOperand_value_toNat (n : Nat) : (naturalOperand n).value.toNat = n := by
  rcases Nat.lt_or_ge n (2 ^ 64) with h | h
  · rw [naturalOperand_of_lt h]
    exact Nat.mod_eq_of_lt h
  · rw [naturalOperand_of_ge h]
    exact Nat.mod_eq_of_lt Nat.lt_log2_self

/-- A core that accepts commands answers an ill-formed one with the width error, and does nothing else (R111). -/
theorem exec_of_not_wellFormed {i : Instr} {s : State} (hc : s.cmdReady = true) (hw : i.wellFormed = false) :
    exec i s = .next (s.respond .invalidInputWidth) :=
  exec_badWidth ((CoreState.blocked_eq_none _).2 hc) ((operands64_eq_none _ _).2 hw)

/-- Settles O30: the width check stands before any computation, and a natural number's operand is 64 bits wide exactly when
the number fits. -/
theorem badWidthIsAnsweredWithStatusOne : Obligations.BadWidthIsAnsweredWithStatusOne :=
  ⟨fun _ _ => exec_of_not_wellFormed, rfl, rfl, fun n => ⟨naturalOperand_is64 n, naturalOperand_value_toNat n⟩⟩

end Sys2Proof.Machine
end

section
/-! The stuck core (R112): what the ports do and show out of reset while FATAL is 1. -/

namespace Sys2Proof.Machine

open Sys2Proof

/-- FATAL and an operation in progress exclude each other (R39). -/
theorem State.Inv.inFlight_of_fatal {s : State} (h : s.Inv) (hf : s.fatal = true) : s.inFlight = none := by
  rw [Option.eq_none_iff_forall_not_mem]
  intro o ho
  obtain ⟨-, hn, -⟩ := h.inFlight o ho
  exact Bool.false_ne_true (hn.symm.trans hf)

theorem CoreState.statusOut_of_fatal {c : CoreState} (h : c.fatal = true) : c.statusOut = 2 :=
  if_pos h

/-- A release of reset clears the latch over good tables and over no others (R112). -/
theorem State.releaseReset_fatal_eq_false (s : State) : s.releaseReset.fatal = false ↔ rangeOk s.rom = true := by
  rw [State.releaseReset_toCoreState, CoreState.releaseReset_fatal, Bool.not_eq_false']

/-- A cycle with `rst` high has no response (R128). -/
theorem portResponse_of_hold {L : Nat} {p : PortInputs} {s : State} (h : portAction L p s.toCoreState = .hold) :
    portResponse L p s = none := by
  simp only [portResponse, coreClock, h]

theorem portResponse_of_idle {L : Nat} {p : PortInputs} {s : State} (h : portAction L p s.toCoreState = .idle) :
    portResponse L p s = none := by
  simp only [portResponse, coreClock, h]

section Stuck

variable {s : State} (hr : s.inReset = false) (hf : s.fatal = true) (ho : s.inFlight = none) (L : Nat) (p : PortInputs)
include hr hf ho

/-- A stuck core does nothing in a cycle, unless the host puts it in reset. -/
theorem portAction_of_fatal : portAction L p s.toCoreState = if p.rst then .hold else .idle := by
  simp [portAction, hr, ho, CoreState.cmdReady_of_fatal hf]

theorem portResponse_of_fatal : portResponse L p s = none := by
  have ha := portAction_of_fatal hr hf ho L p
  split at ha
  · exact portResponse_of_hold ha
  · exact portResponse_of_idle ha

theorem portOutputs_of_fatal : portOutputs L p s = ⟨false, false, none, none, true, 2⟩ := by
  simp [portOutputs, portResponse_of_fatal hr hf ho L p, CoreState.cmdReady_of_fatal hf, CoreState.fatalOut,
    CoreState.statusOut_of_fatal hf, hf]

theorem clockEdge_of_fatal (hp : p.rst = false) : clockEdge L p s = .next s := by
  simp [clockEdge_eq, portAction_of_fatal hr hf ho L p, hp]

end Stuck

/-- Settles O31: the release validates the tables, and by the invariant a stuck core has no operation in progress, so each
of its cycles is idle. -/
theorem invalidTableIsFatalAndSilent : Obligations.InvalidTableIsFatalAndSilent := by
  refine ⟨fun t ht => ?_, State.releaseReset_fatal_eq_false, fun s hs hr hf => ⟨fun i => exec_of_fatal hr hf, fun L p => ?_⟩⟩
  · rw [State.afterReset_toCoreState, CoreState.afterReset_fatal, ht, Bool.not_false]
  · have ho : s.inFlight = none := hs.inFlight_of_fatal hf
    exact ⟨portOutputs_of_fatal hr hf ho L p, clockEdge_of_fatal hr hf ho L p⟩

end Sys2Proof.Machine
end

section
/-! Reset and its release (R125), and a reset while an operation is in progress (R128). -/

namespace Sys2Proof.Machine

open Sys2Proof

/-! `cmd_ready` in reset, and out of reset with nothing in progress -/

/-- Held in reset the core accepts nothing (R125). -/
theorem CoreState.cmdReady_of_inReset {c : CoreState} (h : c.inReset = true) : c.cmdReady = false := by
  simp [CoreState.cmdReady, h]

/-- Out of reset and with nothing in progress, only FATAL keeps `cmd_ready` at 0 (R39). -/
theorem CoreState.cmdReady_eq_not_fatal {c : CoreState} (hr : c.inReset = false) (ho : c.inFlight = none) :
    c.cmdReady = !c.fatal := by
  simp [CoreState.cmdReady, hr, ho]

theorem exec_ne_next_of_inReset {s : State} (h : s.inReset = true) (i : Instr) (s' : State) : exec i s ≠ .next s' :=
  fun he => Bool.false_ne_true ((CoreState.cmdReady_of_inReset h).symm.trans (exec_next_cmdReady he))

/-! Cycles with idle pins, and cycles with `rst` high -/

section Cycle

variable {L : Nat} {p : PortInputs} {s : State}

theorem portAction_idle {c : CoreState} (hr : c.inReset = false) (ho : c.inFlight = none) :
    portAction L PortInputs.idle c = .idle := by
  simp [portAction, PortInputs.idle, hr, ho]

/-- Reset comes before every other action of a cycle (R116, R128). -/
theorem portAction_of_rst {c : CoreState} (h : p.rst = true) : portAction L p c = .hold :=
  if_pos h

theorem clockEdge_of_rst (h : p.rst = true) : clockEdge L p s = .next s.holdReset := by
  rw [clockEdge_eq, portAction_of_rst h]

end Cycle

/-- The release does not depend on what a reset has abandoned. -/
theorem State.releaseReset_holdReset (s : State) : s.holdReset.releaseReset = s.releaseReset := by
  rw [State.releaseReset_eq, State.releaseReset_eq, State.holdReset_eq]

/-! The statements -/

/-- Settles O1: a command answers only where `cmd_ready` is 1, which reset excludes; the release leaves the core out of
reset with nothing in progress, so that readiness is FATAL's negation and a cycle with idle pins has no response. -/
theorem releaseOfResetValidatesTables : Obligations.ReleaseOfResetValidatesTables := by
  refine ⟨fun s i h => ⟨CoreState.cmdReady_of_inReset h, exec_ne_next_of_inReset h i⟩, fun s => ?_, fun t => ?_⟩
  · have hr : s.releaseReset.inReset = false := CoreState.releaseReset_inReset _ s.rom
    have ho : s.releaseReset.inFlight = none := CoreState.releaseReset_inFlight _ s.rom
    exact ⟨CoreState.releaseReset_fatal _ s.rom, ho, hr, CoreState.cmdReady_eq_not_fatal hr ho,
      fun _ => portOutputs_rspValid_eq_false.2 (portResponse_of_idle (portAction_idle hr ho))⟩
  · exact ⟨rfl, rfl, CoreState.cmdReady_eq_not_fatal rfl rfl⟩

/-- Settles O58: a cycle with `rst` high holds the core in reset, whatever was in progress, and the release then starts it
over its ROM. -/
theorem resetAbandonsTheOperation : Obligations.ResetAbandonsTheOperation := by
  intro L s o p _ hp
  have hv : (portOutputs L p s).rspValid = false :=
    portOutputs_rspValid_eq_false.2 (portResponse_of_hold (portAction_of_rst hp))
  have hrel : s.holdReset.releaseReset = { s with fatal := !rangeOk s.rom, inReset := false, inFlight := none } :=
    s.releaseReset_holdReset.trans s.releaseReset_eq
  exact ⟨hv, s.holdReset, clockEdge_of_rst hp, rfl, rfl, rfl, hrel⟩

end Sys2Proof.Machine
end

section
/-! The invariant (R16, R39): every kind of step keeps it, and it makes an accepting core a ready one. -/

namespace Sys2Proof.Machine

open Sys2Proof

section Invariant

variable {s s' : State}

/-- The invariant reads the core's state and the ROM, and nothing of the host's. -/
theorem State.Inv.of_eq (h : s.Inv) (hc : s'.toCoreState = s.toCoreState) (ht : s'.rom = s.rom) : s'.Inv where
  latch := by rw [hc, ht]; exact h.latch
  inFlight := by rw [hc]; exact h.inFlight

/-- With nothing in progress only the latch is left to check. -/
theorem State.Inv.of_inFlight_eq_none (ho : s.inFlight = none) (hl : s.inReset = false → s.fatal = !rangeOk s.rom) :
    s.Inv where
  latch := hl
  inFlight o h := by rw [ho] at h; cases h

theorem State.Inv.inFlight_of_inReset (h : s.Inv) (hi : s.inReset = true) : s.inFlight = none := by
  rw [Option.eq_none_iff_forall_not_mem]
  intro o ho
  obtain ⟨hn, -, -⟩ := h.inFlight o ho
  exact Bool.false_ne_true (hn.symm.trans hi)

theorem State.inv_holdReset (s : State) : s.holdReset.Inv :=
  .of_inFlight_eq_none rfl fun h => by cases h

theorem State.inv_releaseReset (s : State) : s.releaseReset.Inv :=
  .of_inFlight_eq_none (CoreState.releaseReset_inFlight _ s.rom) fun _ => CoreState.releaseReset_fatal _ s.rom

theorem State.inv_afterReset (t : Tables) : (State.afterReset t).Inv :=
  .of_inFlight_eq_none rfl fun _ => rfl

/-- In reset the latch has nothing to tell yet, so the platform may change the ROM (R22). -/
theorem State.Inv.writeRom (h : s.Inv) (hi : s.inReset = true) (t : Tables) : State.Inv { s with rom := t } :=
  .of_inFlight_eq_none (h.inFlight_of_inReset hi) fun hn => absurd (hn.symm.trans hi) Bool.false_ne_true

theorem State.Inv.setInFlight_none (h : s.Inv) : (s.setInFlight none).Inv :=
  .of_inFlight_eq_none rfl h.latch

/-- An operation may be in progress in a core out of reset with FATAL = 0, if it is due within LATENCY cycles. -/
theorem State.Inv.setInFlight_some (h : s.Inv) {o : InFlight} (hi : s.inReset = false) (hf : s.fatal = false)
    (hr : o.remaining < Config.latency) : (s.setInFlight (some o)).Inv where
  latch := h.latch
  inFlight o' ho := by cases ho; exact ⟨hi, hf, hr⟩

theorem State.Inv.respond (h : s.Inv) (r : Response) : (s.respond r).Inv :=
  h.of_eq rfl rfl

/-- `cmd_ready` spelled out (R39, R125). -/
theorem CoreState.cmdReady_eq_true {c : CoreState} :
    c.cmdReady = true ↔ c.inReset = false ∧ c.fatal = false ∧ c.inFlight = none := by
  simp [CoreState.cmdReady, and_assoc]

theorem clockEdge_keeps_inv {p : PortInputs} (hs : s.Inv) (h : clockEdge Config.latency p s = .next s') : s'.Inv := by
  obtain ⟨-, rfl⟩ | ⟨-, -, rfl⟩ | ⟨-, -, rfl⟩ | ⟨-, hi, -, -, hc, hl, rfl⟩ | ⟨o, -, -, ho, -, rfl⟩ |
    ⟨i, r, -, -, -, rfl⟩ := clockEdge_next h
  · exact s.inv_holdReset
  · exact s.inv_releaseReset
  · exact hs
  · -- an acceptance: the first of the LATENCY cycles has passed
    obtain ⟨-, hf, -⟩ := CoreState.cmdReady_eq_true.1 hc
    exact hs.setInFlight_some hi hf (Nat.sub_one_lt hl)
  · -- a cycle of waiting
    obtain ⟨hi, hf, hr⟩ := hs.inFlight o ho
    exact hs.setInFlight_some hi hf (Nat.lt_of_le_of_lt (Nat.sub_le _ _) hr)
  · exact hs.setInFlight_none.respond r

theorem runEvent_keeps_inv {e : HostEvent} (hs : s.Inv) (h : runEvent e s = .next s') : s'.Inv := by
  obtain ⟨i, r, -, rfl⟩ | rfl | ⟨t, -, hi, rfl⟩ | ⟨-, rfl⟩ | rfl | ⟨p, -, hp⟩ := runEvent_next h
  · exact hs.respond r
  · exact s.inv_holdReset
  · exact hs.writeRom hi t
  · exact s.inv_releaseReset
  · exact hs
  · exact clockEdge_keeps_inv hs hp

/-- A core that accepts commands and meets the invariant is ready: its latch vouches for the tables (R127). -/
theorem State.Inv.ready (h : s.Inv) (hc : s.cmdReady = true) : s.Ready := by
  obtain ⟨hi, hf, ho⟩ := CoreState.cmdReady_eq_true.1 hc
  have hlatch : (!rangeOk s.rom) = false := (h.latch hi).symm.trans hf
  exact ⟨hf, hi, ho, (Bool.not_eq_false' ..).mp hlatch⟩

end Invariant

/-- Settles O4: each event keeps the invariant, and taking the event changes the pending inputs only, which the invariant
does not read. -/
theorem stepKeepsLatchAndInFlightInvariant : Obligations.StepKeepsLatchAndInFlightInvariant := by
  intro s s' hs h
  obtain ⟨-, rfl⟩ | ⟨e, rest, -, he⟩ := step_next h
  · exact hs
  · exact runEvent_keeps_inv (s := s.setInputs rest) (hs.of_eq rfl rfl) he

/-- Settles O3: over tables in RANGE_OK the latch is 0 out of reset. -/
theorem resetStateIsReadyAndMeetsInvariant : Obligations.ResetStateIsReadyAndMeetsInvariant := by
  have hinv : State.reset.Inv := State.inv_afterReset tablesFips
  have hready : State.reset.cmdReady = true := by decide +kernel
  exact ⟨hinv.ready hready, hinv⟩

/-- Settles O2: `blocked` asks about reset before it asks about FATAL. -/
theorem commandInResetIsAFaultNamedFirst : Obligations.CommandInResetIsAFaultNamedFirst :=
  fun _ _ hi => exec_blocked (if_pos hi)

/-- Settles O29: in a state that meets the invariant a core without a reason to be blocked is ready, and a ready core
completes. -/
theorem execCompletesExactlyWhenReady : Obligations.ExecCompletesExactlyWhenReady := by
  intro i s hs
  have hready (hb : s.blocked = none) : s.Ready := hs.ready (s.blocked_eq_none.1 hb)
  refine ⟨⟨fun ⟨s', h⟩ => exec_next_cmdReady h, fun hc => ⟨_, exec_of_ready i (hs.ready hc)⟩⟩, fun r h => ?_,
    fun r => ⟨exec_fault, exec_blocked⟩⟩
  obtain ⟨hb, ht⟩ := exec_refused h
  exact Bool.false_ne_true (ht.symm.trans (hready hb).tables)

/-- Settles O28: an instruction that completes responds, and a response joins the record and changes nothing else; it is
the error response exactly where the width check fails. -/
theorem execAddsOneResponseAndNothingElse : Obligations.ExecAddsOneResponseAndNothingElse := by
  intro i s s' h
  have hwf : operands64 i.block i.key = none ↔ i.wellFormed = false := operands64_eq_none _ _
  obtain ⟨-, ⟨hw, rfl⟩ | ⟨b, k, ht, hw, rfl⟩⟩ := exec_next_cases h
  · exact ⟨rfl, rfl, rfl, rfl, rfl, fun _ => rfl, _, rfl, iff_of_true rfl (hwf.1 hw)⟩
  · have hnot : ¬i.wellFormed = false := by rw [← hwf, hw]; exact Option.some_ne_none _
    exact ⟨rfl, rfl, rfl, rfl, rfl, fun _ => rfl, _, rfl, iff_of_false Response.noConfusion hnot⟩

end Sys2Proof.Machine
end

section
/-! Encoding and decoding as inverses (R32, R36, R37). -/

namespace Sys2Proof

/-- Setting `op` in a word that has it clear puts it in front of the operands (R32). -/
theorem opAt128_or (op : BitVec 1) (block : Block) (key : Key) :
    opAt128 op ||| ((0 : BitVec 1) ++ block ++ key) = op ++ block ++ key := by
  have hop : op ||| 0 = op := BitVec.or_zero
  have hzero (v : BitVec 64) : 0 ||| v = v := BitVec.zero_or
  rw [opAt128, BitVec.or_append, BitVec.or_append, hop, hzero, hzero]

/-- An instruction on 64-bit operands is the pattern of its row, filled in. -/
theorem encode_of_operands {i : Instr} {block : Block} {key : Key} (hb : i.block = Bits.of block)
    (hk : i.key = Bits.of key) : encode i = some (i.row.pattern ||| ((0 : BitVec 1) ++ block ++ key)) := by
  simp only [encode, hb, hk, Bits.asWidth_of]

/-- The row of a decoded command has the `op` that was decoded. -/
theorem commandOf_row_pattern (w : CmdWord) : (commandOf w).row.pattern = opAt128 (CmdWord.op w) := by
  rcases BitVec.eq_zero_or_eq_one (CmdWord.op w) with h | h <;> simp [commandOf, rowOf, h, rowEnc, rowDec, Instr.row]

/-- A word is the encoding of its command. -/
theorem encode_commandOf (w : CmdWord) : encode (commandOf w) = some w := by
  rw [encode_of_operands (commandOf_block w) (commandOf_key w), commandOf_row_pattern, opAt128_or, CmdWord.fields]

theorem commandOf_wellFormed (w : CmdWord) : (commandOf w).wellFormed = true := by
  rw [Instr.wellFormed, commandOf_block, commandOf_key, Bits.is64_of, Bits.is64_of, Bool.and_self]

/-- A well-formed instruction is one of the two operations on 64-bit vectors, presented (R31). -/
theorem Instr.eq_of_wellFormed {i : Instr} (h : i.wellFormed = true) :
    ∃ (block : Block) (key : Key), i = .enc (Bits.of block) (Bits.of key) ∨ i = .dec (Bits.of block) (Bits.of key) := by
  obtain ⟨hb, hk⟩ := Bool.and_eq_true_iff.mp h
  obtain ⟨block, hb⟩ := Bits.eq_of_is64 hb
  obtain ⟨key, hk⟩ := Bits.eq_of_is64 hk
  refine ⟨block, key, ?_⟩
  cases i with
  | enc _ _ => exact .inl (congrArg₂ Instr.enc hb hk)
  | dec _ _ => exact .inr (congrArg₂ Instr.dec hb hk)

/-- Every well-formed instruction is the command of some word. -/
theorem exists_eq_commandOf {i : Instr} (h : i.wellFormed = true) : ∃ w, i = commandOf w := by
  obtain ⟨block, key, rfl | rfl⟩ := Instr.eq_of_wellFormed h
  · exact ⟨0 ++ block ++ key, (commandOf_append 0 block key).symm⟩
  · exact ⟨1 ++ block ++ key, (commandOf_append 1 block key).symm⟩

/-- Settles O12: a well-formed instruction is the command of a word, which is its encoding. -/
theorem decodeOfEncodeIsTheInstruction : Obligations.DecodeOfEncodeIsTheInstruction := by
  intro i h
  obtain ⟨w, rfl⟩ := exists_eq_commandOf h
  exact ⟨w, encode_commandOf w, decode_of w⟩

/-- Settles O13: every word decodes to its command, whose encoding it is. -/
theorem encodeOfDecodeIsTheWord : Obligations.EncodeOfDecodeIsTheWord :=
  fun w => ⟨commandOf w, decode_of w, commandOf_wellFormed w, encode_commandOf w⟩

/-! Words of other lengths -/

theorem decode_of_width_ne {w : Bits} (h : w.width ≠ 129) : decode w = .error (.wrongLength w.width) := by
  simp only [decode, Bits.asWidth_eq_none h]

/-- A table word with a bit above bit 128 keeps its own length, which is not 129 (log 14). -/
theorem tableWord_width_ne {nbits w : Nat} (h : 2 ^ 129 ≤ w % 2 ^ nbits) : (tableWord nbits w).width ≠ 129 := by
  have hlt : w % 2 ^ nbits < 2 ^ nbits := Nat.mod_lt _ (Nat.two_pow_pos nbits)
  have hlen : 129 < nbits := (Nat.pow_lt_pow_iff_right (by decide)).1 (Nat.lt_of_le_of_lt h hlt)
  rw [tableWord, if_neg (Nat.not_lt.2 h)]
  exact Nat.ne_of_gt hlen

/-- Settles O16: data, and with it a word, exists in a response of status OK and in no other. -/
theorem errorResponseHasNoWord : Obligations.ErrorResponseHasNoWord := by
  intro r
  cases r with
  | ok d => exact iff_of_false (Option.some_ne_none _) (not_not_intro rfl)
  | invalidInputWidth => exact iff_of_true rfl (by decide)

/-- Settles O17: four closed words, decoded by the kernel. -/
theorem publishedWordsDecode : Obligations.PublishedWordsDecode := by
  unfold Obligations.PublishedWordsDecode
  decide +kernel

end Sys2Proof
end

section
/-! `permute` on whole values: linearity, constants, complement and composition (R46 to R48). -/

namespace Sys2Proof.Machine

open Sys2Proof

section Permute

variable {N M : Nat} (x y : BitVec N) (t : PermTable N M)

theorem permute_xor : permute (x ^^^ y) t = permute x t ^^^ permute y t := by
  refine eq_of_mbit_eq fun i hi => ?_
  calc mbit (permute (x ^^^ y) t) i
    _ = mbit (x ^^^ y) (t.entries[i] - 1) := permute_mbit _ t i hi
    _ = (mbit x (t.entries[i] - 1) ^^ mbit y (t.entries[i] - 1)) := BitVec.getMsbD_xor
    _ = (mbit (permute x t) i ^^ mbit (permute y t) i) := by rw [permute_mbit x t i hi, permute_mbit y t i hi]
    _ = mbit (permute x t ^^^ permute y t) i := BitVec.getMsbD_xor.symm

@[simp] theorem permute_zero : permute 0 t = 0 := by
  refine eq_of_mbit_eq fun i hi => ?_
  rw [permute_mbit _ t i hi]
  exact BitVec.getMsbD_zero.trans BitVec.getMsbD_zero.symm

/-- Every entry names a position of the input, so no output bit is read from outside it. -/
@[simp] theorem permute_ones : permute (ones N) t = ones M := by
  refine eq_of_mbit_eq fun i hi => ?_
  obtain ⟨hpos, hle⟩ := t.entry_range i hi
  have hin : t.entries[i] - 1 < N := by omega
  rw [permute_mbit _ t i hi, mbit, mbit, BitVec.getMsbD_allOnes, BitVec.getMsbD_allOnes, decide_eq_true hin,
    decide_eq_true hi]

/-- The complement is the XOR with ones. -/
@[simp] theorem permute_not : permute (~~~x) t = ~~~permute x t := by
  rw [← BitVec.xor_allOnes, permute_xor, permute_ones, BitVec.xor_allOnes]

end Permute

/-- Settles O33: an output bit is one input bit, and XOR works bit by bit. -/
theorem permuteIsLinearOverXor : Obligations.PermuteIsLinearOverXor := fun _ _ => permute_xor

/-- Settles O34: every output bit is a bit of the input, and the complement is the XOR with ones. -/
theorem permuteKeepsConstantsAndComplement : Obligations.PermuteKeepsConstantsAndComplement :=
  fun _ _ x t => ⟨permute_zero t, permute_ones t, permute_not x t⟩

/-- Settles O35: position i of the two in a row is the position that the composed table names. -/
theorem permutationsCompose : Obligations.PermutationsCompose := by
  intro N M K x t u v hv
  refine eq_of_mbit_eq fun i hi => ?_
  obtain ⟨hpos, hle⟩ := u.entry_range i hi
  have hin : u.entries[i] - 1 < M := by omega
  have hentry : t.entries[u.entries[i] - 1] = v.entries[i] := by
    have := hv i hi
    rwa [Vector.getElem?_eq_getElem hin, Option.some.injEq] at this
  calc mbit (permute (permute x t) u) i
    _ = mbit (permute x t) (u.entries[i] - 1) := permute_mbit _ u i hi
    _ = mbit x (t.entries[u.entries[i] - 1] - 1) := permute_mbit x t _ hin
    _ = mbit (permute x v) i := by rw [hentry, permute_mbit x v i hi]

/-- Settles O36: the clauses give the inverse from both sides. -/
theorem fpAndIpUndoEachOther : Obligations.FpAndIpUndoEachOther := by
  intro t h x hok
  obtain ⟨-, hfp⟩ := Bool.and_eq_true_iff.mp hok
  exact ⟨permute_fp_leftInverse_ip t h hfp x, permute_fp_rightInverse_ip t h hfp x⟩

end Sys2Proof.Machine
end

section
/-! The key schedule in single steps of rotation, and the keys it treats alike (R62 to R64). -/

namespace Sys2Proof.Machine

open Sys2Proof

section Rotate

/-- A rotation by s is s single steps. -/
theorem rotl28_eq_iterate (v : KeyHalf) {s : Nat} (hs : s < 28) : rotl28 v s = (rotl28 · 1)^[s] v := by
  induction s with
  | zero =>
    refine eq_of_mbit_eq fun i hi => ?_
    rw [rotl28_mbit v hs hi, Nat.zero_add, Nat.mod_eq_of_lt hi, Function.iterate_zero, id]
  | succ s ih => rw [Function.iterate_succ_apply', ← ih (by omega), rotl28_rotl28 v hs]

/-- After 28 single steps every bit is back in its place. -/
theorem rotl28_iterate_28 (v : KeyHalf) : (rotl28 · 1)^[28] v = v := by
  rw [Function.iterate_succ_apply', ← rotl28_eq_iterate v (by decide)]
  refine eq_of_mbit_eq fun i hi => ?_
  have hmod : (1 + i) % 28 < 28 := Nat.mod_lt _ (by decide)
  have hback : (27 + (1 + i) % 28) % 28 = i := by omega
  rw [rotl28_mbit _ (by decide) hi, rotl28_mbit v (by decide) hmod, hback]

theorem rotl28_not (v : KeyHalf) : rotl28 (~~~v) 1 = ~~~rotl28 v 1 := by
  refine eq_of_mbit_eq fun i hi => ?_
  have hmod : (1 + i) % 28 < 28 := Nat.mod_lt _ (by decide)
  rw [rotl28_mbit _ (by decide) hi, mbit, mbit, BitVec.getMsbD_not, BitVec.getMsbD_not, decide_eq_true hmod,
    decide_eq_true hi, ← mbit, ← mbit, rotl28_mbit v (by decide) hi]

theorem rotl28_iterate_not (v : KeyHalf) (n : Nat) : (rotl28 · 1)^[n] (~~~v) = ~~~(rotl28 · 1)^[n] v :=
  (Function.Semiconj.iterate_right (f := (~~~· : KeyHalf → KeyHalf)) (fun v => (rotl28_not v).symm) n v).symm

/-- A half of equal bits looks the same after any rotation. -/
theorem rotl28_iterate_of_uniform {v : KeyHalf} (h : v = 0 ∨ v = ones 28) (n : Nat) : (rotl28 · 1)^[n] v = v := by
  refine Function.iterate_fixed ?_ n
  rcases h with rfl | rfl <;> decide

/-- A slice of the complement is the complement of the slice. -/
theorem slice_not {W : Nat} (v : BitVec W) {lo n : Nat} (h : lo + n ≤ W) : slice (~~~v) lo n = ~~~slice v lo n := by
  refine BitVec.eq_of_getLsbD_eq fun i hi => ?_
  have hin : lo + i < W := by omega
  simp [hi, hin]

/-- C and D rotated n single steps. -/
def KeyHalves.rotated (h : KeyHalves) (n : Nat) : KeyHalves := ⟨(rotl28 · 1)^[n] h.c, (rotl28 · 1)^[n] h.d⟩

/-- Both halves complemented. -/
def KeyHalves.complement (h : KeyHalves) : KeyHalves := ⟨~~~h.c, ~~~h.d⟩

theorem KeyHalves.rotated_complement (h : KeyHalves) (n : Nat) : h.complement.rotated n = (h.rotated n).complement := by
  rw [rotated, complement, rotl28_iterate_not, rotl28_iterate_not]
  rfl

/-- The schedule's rotations add up (R57). -/
theorem foldl_rotateHalves (ss : List Nat) (hss : ∀ s ∈ ss, s < 28) (h : KeyHalves) :
    ss.foldl rotateHalves h = h.rotated ss.sum := by
  induction ss generalizing h with
  | nil => rfl
  | cons s ss ih =>
    have hs : s < 28 := hss s List.mem_cons_self
    rw [List.foldl_cons, ih (fun s hm => hss s (List.mem_cons_of_mem _ hm)), List.sum_cons, Nat.add_comm s]
    simp only [KeyHalves.rotated, rotateHalves, Function.iterate_add_apply, rotl28_eq_iterate _ hs]

end Rotate

/-- A[i], the single steps that have been made when round key i is taken (R62). -/
def stepsBefore (i : Fin 16) : Nat := [1, 2, 4, 6, 8, 10, 12, 14, 15, 17, 19, 21, 23, 25, 27, 28][i]

theorem sum_take_shifts : ∀ i : Fin 16, (shifts.toList.take (i.val + 1)).sum = stepsBefore i := by
  decide

theorem shifts_lt : ∀ s ∈ shifts.toList, s < 28 := by
  decide

section Schedule

variable (t : CheckedTables) (key : Key)

/-- Round key i comes from the first halves, rotated A[i] single steps (R62). -/
theorem generate_getElem_eq_rotated {i : Nat} (hi : i < 16) :
    (generate t key)[i] = roundKeyOf t ((startHalves t key).rotated (stepsBefore ⟨i, hi⟩)) := by
  have hlt : ∀ s ∈ shifts.toList.take (i + 1), s < 28 := fun s hs => shifts_lt s (List.mem_of_mem_take hs)
  rw [generate_getElem t key i hi, foldl_rotateHalves _ hlt, sum_take_shifts ⟨i, hi⟩]

/-- C and D together are the permuted key (R54). -/
theorem startHalves_append : ((startHalves t key).c ++ (startHalves t key).d : PermutedKey) = permute key t.pc1 :=
  calc (slice (permute key t.pc1) 28 28 ++ slice (permute key t.pc1) 0 28 : PermutedKey)
    _ = slice (permute key t.pc1) 0 56 := BitVec.extractLsb'_append_extractLsb'_eq_extractLsb' rfl
    _ = permute key t.pc1 := BitVec.extractLsb'_eq_self

theorem startHalves_not : startHalves t (~~~key) = (startHalves t key).complement := by
  rw [startHalves, permute_not, slice_not _ (by decide), slice_not _ (by decide)]
  rfl

theorem roundKeyOf_complement (h : KeyHalves) : roundKeyOf t h.complement = ~~~roundKeyOf t h := by
  rw [roundKeyOf, roundKeyOf, ← permute_not, BitVec.not_append]
  rfl

/-- The complemented key has the complemented round keys (R64). -/
theorem generate_getElem_not {i : Nat} (hi : i < 16) : (generate t (~~~key))[i] = ~~~(generate t key)[i] := by
  rw [generate_getElem_eq_rotated _ _ hi, generate_getElem_eq_rotated _ _ hi, startHalves_not, KeyHalves.rotated_complement,
    roundKeyOf_complement]

/-- Where rotation changes neither half, every round key is PC2 of the permuted key (R64). -/
theorem generate_getElem_of_uniform (hc : (startHalves t key).c = 0 ∨ (startHalves t key).c = ones 28)
    (hd : (startHalves t key).d = 0 ∨ (startHalves t key).d = ones 28) {i : Nat} (hi : i < 16) :
    (generate t key)[i] = permute (permute key t.pc1) t.pc2 := by
  rw [generate_getElem_eq_rotated _ _ hi, KeyHalves.rotated, rotl28_iterate_of_uniform hc, rotl28_iterate_of_uniform hd,
    roundKeyOf, startHalves_append]

theorem startHalves_zero : startHalves t 0 = ⟨0, 0⟩ := by
  rw [startHalves, permute_zero]
  rfl

theorem generate_getElem_zero {i : Nat} (hi : i < 16) : (generate t 0)[i] = 0 := by
  have h := startHalves_zero t
  rw [generate_getElem_of_uniform t 0 (.inl (congrArg KeyHalves.c h)) (.inl (congrArg KeyHalves.d h)) hi, permute_zero,
    permute_zero]

theorem generate_getElem_ones {i : Nat} (hi : i < 16) : (generate t (ones 64))[i] = ones 48 := by
  have hones : ones 64 = ~~~(0 : Key) := BitVec.not_zero.symm
  rw [hones, generate_getElem_not t 0 hi, generate_getElem_zero t hi]
  exact BitVec.not_zero

/-- The schedule reads the key through PC1 only (R53). -/
theorem generate_congr {t : CheckedTables} {k k' : Key} (h : permute k t.pc1 = permute k' t.pc1) :
    generate t k = generate t k' := by
  have hstart : startHalves t k = startHalves t k' := by rw [startHalves, startHalves, h]
  exact Vector.toList_inj.1 (by rw [generate_toList, generate_toList, hstart])

end Schedule

/-- Settles O39: the rotations add up to A[i] single steps; after the last round these are 28, which change nothing. -/
theorem roundKeyIsCumulativeRotation : Obligations.RoundKeyIsCumulativeRotation := by
  intro t key
  refine ⟨fun i => generate_getElem_eq_rotated t key i.isLt, ?_⟩
  have hlast : (startHalves t key).rotated 28 = startHalves t key := by
    rw [KeyHalves.rotated, rotl28_iterate_28, rotl28_iterate_28]
  calc (generate t key)[15]
    _ = roundKeyOf t ((startHalves t key).rotated 28) := generate_getElem_eq_rotated t key (by decide)
    _ = permute (permute key t.pc1) t.pc2 := by rw [hlast, roundKeyOf, startHalves_append]

/-- A table of n entries leaves at least m - n of m positions unnamed. -/
theorem sub_le_card_unnamed (m : Nat) {n : Nat} (position : Fin n → Nat) :
    m - n ≤ ((Finset.range m).filter fun p => ∀ i, position i ≠ p).card := by
  have hnamed : (Finset.univ.image position).card ≤ n := Finset.card_image_le.trans (Finset.card_fin n).le
  have hunnamed : ((Finset.range m).filter fun p => ∀ i, position i ≠ p) = Finset.range m \ Finset.univ.image position := by
    ext p
    simp
  calc m - n
    _ ≤ (Finset.range m).card - (Finset.univ.image position).card := by rw [Finset.card_range]; omega
    _ ≤ (Finset.range m \ Finset.univ.image position).card := Finset.le_card_sdiff _ _
    _ = _ := by rw [hunnamed]

/-- Settles O40: PC1 has 56 entries for 64 positions, and the schedule reads the key through PC1 only. -/
theorem unnamedKeyBitsHaveNoEffect : Obligations.UnnamedKeyBitsHaveNoEffect := by
  refine ⟨fun t => sub_le_card_unnamed 64 fun i => t.pc1.entries[i] - 1, fun t k k' h => ?_⟩
  have hpc1 : permute k t.pc1 = permute k' t.pc1 := eq_of_mbit_eq fun i hi => by
    rw [permute_mbit k _ i hi, permute_mbit k' _ i hi]
    exact h ⟨i, hi⟩
  have hgen : generate t k = generate t k' := generate_congr hpc1
  exact ⟨hgen, fun b => by simp only [encrypt, decrypt, crypt, hgen, and_self]⟩

/-- Settles O41: rotation leaves uniform halves as they are, and commutes with the complement, as PC1 and PC2 do. -/
theorem uniformAndComplementedKeys : Obligations.UniformAndComplementedKeys := fun t key i =>
  ⟨generate_getElem_zero t i.isLt, generate_getElem_ones t i.isLt, generate_getElem_not t key i.isLt, fun hc hd =>
    (generate_getElem_of_uniform t key hc hd i.isLt).trans
      (generate_getElem_of_uniform t key hc hd (by decide)).symm⟩

end Sys2Proof.Machine
end

section
/-! Complementation of F and of the cipher (R74, R95), and keys whose round keys are all equal (R96). -/

namespace Sys2Proof.Machine

open Sys2Proof

/-- The complements cancel where the expanded half meets the round key (R74). -/
theorem feistelF_not_not (t : CheckedTables) (r : Half) (k : RoundKey) : feistelF t (~~~r) (~~~k) = feistelF t r k := by
  have hmix : permute (~~~r) t.e ^^^ ~~~k = permute r t.e ^^^ k := by
    rw [permute_not, ← BitVec.not_xor_left, ← BitVec.not_xor_right, BitVec.not_not]
  rw [feistelF, hmix, feistelF]

/-- Settles O43: the complements cancel in the mix. -/
theorem fIsInvariantUnderComplement : Obligations.FIsInvariantUnderComplement := feistelF_not_not

/-- Settles O44: all 64 group values, by evaluation. -/
theorem flatSboxIndexIsTheGroup : Obligations.FlatSboxIndexIsTheGroup := by
  unfold Obligations.FlatSboxIndexIsTheGroup
  decide

/-- L and R complemented. -/
def Halves.complement (h : Halves) : Halves := ⟨~~~h.l, ~~~h.r⟩

section Complement

variable (t : CheckedTables)

theorem Halves.join_complement (h : Halves) : h.complement.join = ~~~h.join := BitVec.not_append.symm

theorem startRounds_not (b : Block) : startRounds t (~~~b) = (startRounds t b).complement :=
  startRounds_eq (by rw [permute_not, Halves.join_complement, startRounds_join])

theorem finish_complement (h : Halves) : finish t h.complement = ~~~finish t h := by
  have hswap : h.complement.swap.join = ~~~h.swap.join := h.swap.join_complement
  rw [finish_eq, finish_eq, hswap, permute_not]

theorem round_complement (h : Halves) (k : RoundKey) : round t h.complement (~~~k) = (round t h k).complement := by
  have hr : ~~~h.l ^^^ feistelF t (~~~h.r) (~~~k) = ~~~(h.l ^^^ feistelF t h.r k) := by
    rw [feistelF_not_not, BitVec.not_xor_left]
  exact congrArg (Halves.mk (~~~h.r)) hr

theorem rounds_complement (ks : List RoundKey) (h : Halves) :
    rounds t (ks.map (~~~·)) h.complement = (rounds t ks h).complement := by
  induction ks generalizing h with
  | nil => rfl
  | cons k ks ih => rw [List.map_cons, rounds_cons, round_complement, ih, rounds_cons]

theorem pass_complement (ks : List RoundKey) (b : Block) : pass t (ks.map (~~~·)) (~~~b) = ~~~pass t ks b := by
  rw [pass, startRounds_not, rounds_complement, finish_complement, pass]

theorem generate_not_toList (k : Key) : (generate t (~~~k)).toList = (generate t k).toList.map (~~~·) := by
  refine List.ext_getElem (by simp) fun i hi _ => ?_
  have hi : i < 16 := by simpa using hi
  simpa using generate_getElem_not t k hi

end Complement

/-- Settles O49: each operation is a pass, and the round keys of the complemented key are the complements. -/
theorem cipherHasComplementation : Obligations.CipherHasComplementation := by
  intro t b k
  refine ⟨?_, ?_⟩
  · rw [encrypt_eq_pass, encrypt_eq_pass, generate_not_toList, pass_complement]
  · rw [decrypt_eq_pass, decrypt_eq_pass, generate_not_toList, ← List.map_reverse, pass_complement]

/-- Equal round keys read the same in both orders. -/
theorem decrypt_eq_encrypt_of_equal_keys {t : CheckedTables} {k : Key} {rk : RoundKey}
    (hk : ∀ {i : Nat} (hi : i < 16), (generate t k)[i] = rk) (b : Block) : decrypt t b k = encrypt t b k := by
  have hlist : (generate t k).toList = List.replicate 16 rk := by
    refine List.ext_getElem (by simp) fun i hi _ => ?_
    have hi : i < 16 := by simpa using hi
    rw [Vector.getElem_toList, List.getElem_replicate, hk hi]
  rw [decrypt_eq_pass, encrypt_eq_pass, hlist, List.reverse_replicate]

/-- Settles O50: with equal round keys ENC is its own inverse DEC; the round keys of 0 are all 0, those of ones(64) all
ones. -/
theorem equalRoundKeysMakeEncSelfInverse : Obligations.EqualRoundKeysMakeEncSelfInverse := by
  intro t h b
  refine ⟨fun k hk => ?_, ?_, ?_⟩
  · have hsame := decrypt_eq_encrypt_of_equal_keys fun {i} hi => hk ⟨i, hi⟩
    refine ⟨hsame b, fun hok => ?_⟩
    obtain ⟨hback, -⟩ := decryptUndoesEncrypt t h hok b k
    rwa [hsame] at hback
  · exact decrypt_eq_encrypt_of_equal_keys (generate_getElem_zero (checkedTables t h)) b
  · exact decrypt_eq_encrypt_of_equal_keys (generate_getElem_ones (checkedTables t h)) b

end Sys2Proof.Machine
end

section
/-! A step as the oldest event's, and runs of several (R10, R28, R135). -/

namespace Sys2Proof.Machine

open Sys2Proof

section Step

variable {s s' : State}

theorem step_of_inputs {e : HostEvent} {rest : List HostEvent} (h : s.inputs = e :: rest) :
    step s = runEvent e (s.setInputs rest) := by
  simp only [step, takeEvent, h]

theorem step_of_nothing (h : s.inputs = []) : step s = .next s := by
  simp only [step, takeEvent, h]

/-- A presented word is taken first, and leaves the inputs as they were before it was presented. -/
theorem step_present (s : State) (w : Bits) : step (s.present w) = runWord w s :=
  step_of_inputs (s.present_inputs w)

theorem run_succ_of_step (h : step s = .next s') (k : Nat) :
    Host.Core.run Sys2Proof.core (k + 1) s = Host.Core.run Sys2Proof.core k s' := by
  have hstep : Sys2Proof.core.step s = .next s' := h
  simp only [Host.Core.run, hstep]

/-- A run whose first step takes the event e. -/
theorem run_succ_of_event {e : HostEvent} {rest : List HostEvent} (h : s.inputs = e :: rest)
    (he : runEvent e (s.setInputs rest) = .next s') (k : Nat) :
    Host.Core.run Sys2Proof.core (k + 1) s = Host.Core.run Sys2Proof.core k s' :=
  run_succ_of_step ((step_of_inputs h).trans he) k

end Step

theorem decode_tableWord {nbits w : Nat} {i : Instr} (h : decodeTableWord nbits w = some i) :
    decode (tableWord nbits w) = .ok i := by
  unfold decodeTableWord at h
  split at h
  · rename_i j hj
    cases h
    exact hj
  · cases h

/-- Settles O20: a step is the oldest event's; a command's event is exec of what its word decodes to. -/
theorem stepRunsThePresentedCommand : Obligations.StepRunsThePresentedCommand := by
  refine ⟨fun s w i rest hin hw => ?_, fun s nbits w i hw => ?_, fun s i rest => step_of_inputs,
    fun s e rest => step_of_inputs, fun s => step_of_nothing⟩
  · exact (step_of_inputs hin).trans (runWord_ok hw)
  · exact (step_present s _).trans (runWord_ok (decode_tableWord hw))

/-- Settles O21: every event but the platform's is the core's step over the ROM, and the core's answer holds no tables. -/
theorem stepTakesTablesAsAParameter : Obligations.StepTakesTablesAsAParameter := by
  refine ⟨fun s e rest hin he => ?_, fun L i s => exec_eq_absorb i s, fun s s' r => State.absorb_next_rom⟩
  exact (step_of_inputs hin).trans (runEvent_eq_absorb he _)

/-- Settles O14: the decoder names the length, and the step refuses with what the decoder says. -/
theorem otherLengthsAreRejectedByName : Obligations.OtherLengthsAreRejectedByName := by
  refine ⟨fun w s h => ?_, fun nbits w h => ?_⟩
  · have hd := decode_of_width_ne h
    exact ⟨hd, by rw [step_present, runWord, hd]⟩
  · rw [decodeTableWord, decode_of_width_ne (tableWord_width_ne h)]

/-! Reset by events -/

section Reset

variable {s : State} {rest : List HostEvent}

theorem runEvent_releaseReset (h : s.inReset = true) : runEvent .releaseReset s = .next s.releaseReset := by
  simp only [runEvent, coreStep, h, if_true, State.absorb_silent]
  rfl

/-- A reset holds the core, whatever it was doing (R125, R128). -/
theorem run_succ_of_assertReset (h : s.inputs = .assertReset :: rest) (k : Nat) :
    Host.Core.run Sys2Proof.core (k + 1) s = Host.Core.run Sys2Proof.core k (s.setInputs rest).holdReset :=
  run_succ_of_event h rfl k

theorem run_succ_of_writeRom {t : Tables} (h : s.inputs = .writeRom t :: rest) (hi : s.inReset = true) (k : Nat) :
    Host.Core.run Sys2Proof.core (k + 1) s = Host.Core.run Sys2Proof.core k { s.setInputs rest with rom := t } :=
  run_succ_of_event h (runEvent_writeRom_of_inReset t hi) k

/-- A release starts the core over its ROM (R125). -/
theorem run_one_of_releaseReset (h : s.inputs = .releaseReset :: rest) (hi : s.inReset = true) :
    Host.Core.run Sys2Proof.core 1 s =
      .next { s with fatal := !rangeOk s.rom, inReset := false, inFlight := none, inputs := rest } :=
  (run_succ_of_event h (runEvent_releaseReset hi) 0).trans (congrArg Host.Outcome.next (State.releaseReset_eq _))

end Reset

/-- Settles O7: the reset holds the core, in which the platform writes the ROM, and the release validates it. -/
theorem resetOverNewTablesRecoversAnyState : Obligations.ResetOverNewTablesRecoversAnyState := by
  intro s t rest hin
  refine (run_succ_of_assertReset hin 2).trans ?_
  refine (run_succ_of_writeRom (rest := .releaseReset :: rest) rfl rfl 1).trans ?_
  exact run_one_of_releaseReset rfl rfl

/-! Runs of commands -/

section Ready

variable {s s' : State}

/-- Readiness reads the core's state and the ROM, and nothing of the host's. -/
theorem State.Ready.of_eq (h : s.Ready) (hc : s'.toCoreState = s.toCoreState) (ht : s'.rom = s.rom) : s'.Ready where
  notFatal := by rw [hc, h.notFatal]
  notInReset := by rw [hc, h.notInReset]
  notBusy := by rw [hc, h.notBusy]
  tables := by rw [ht, h.tables]

theorem State.Ready.respond (h : s.Ready) (r : Response) : (s.respond r).Ready := h.of_eq rfl rfl

theorem State.Ready.setInputs (h : s.Ready) (es : List HostEvent) : (s.setInputs es).Ready := h.of_eq rfl rfl

end Ready

/-- Settles O22, by induction on the commands: each step answers one and leaves a ready core over the same tables. -/
theorem commandsAreAnsweredInOrder : Obligations.CommandsAreAnsweredInOrder := by
  intro s h is rest hin
  induction is generalizing s with
  | nil =>
    have hrest : s.inputs = rest := hin
    rw [← hrest, List.map_nil, List.append_nil]
    rfl
  | cons i is ih =>
    have h' := h.setInputs (is.map .call ++ rest)
    rw [List.length_cons, run_succ_of_event hin (exec_of_ready i h'), ih _ (h'.respond _) rfl, State.respond_responses,
      List.append_assoc]
    rfl

/-- Settles O23: the run is the one that answers every command, and it ends with nothing presented. -/
theorem everyRunOfCommandsEnds : Obligations.EveryRunOfCommandsEnds := by
  refine ⟨fun s is h hin => ?_, fun s hf hend => Bool.false_ne_true (hend.notFatal.symm.trans hf)⟩
  have hrun := commandsAreAnsweredInOrder s h is [] (by rw [hin, List.append_nil])
  exact ⟨_, hrun, ⟨rfl, h.notBusy, h.notFatal, h.notInReset⟩, by rw [List.length_append, List.length_map]⟩

/-- A ready core answers a well-formed command with the value of its operation. -/
theorem exec_of_value {i : Instr} {s : State} (h : s.Ready) {b v : Block} {k : Key} (hb : i.block = Bits.of b)
    (hk : i.key = Bits.of k) (hv : valueOf i (checkedTables s.rom h.tables) b k = v) :
    exec i s = .next (s.respond (.ok v)) := by
  rw [exec_of_operands h hb hk, hv]

/-- Settles O48: each response carries the value of its operation, and the two values are inverse. -/
theorem machineRoundTrip : Obligations.MachineRoundTrip := by
  intro s h hok b k
  obtain ⟨hdec, henc⟩ := decryptUndoesEncrypt s.rom h.tables hok b k
  exact ⟨⟨_, exec_of_value h rfl rfl rfl, exec_of_value (h.respond _) rfl rfl hdec⟩,
    ⟨_, exec_of_value h rfl rfl rfl, exec_of_value (h.respond _) rfl rfl henc⟩⟩

/-! Several instances -/

section Instances

variable {j k : Nat} {cores cores' : List State}

theorem stepInstance_of_none (h : cores[k]? = none) : stepInstance k cores = .next cores := by
  simp only [stepInstance, h]

theorem stepInstance_of_step {s s' : State} (h : cores[k]? = some s) (hs : step s = .next s') :
    stepInstance k cores = .next (cores.set k s') := by
  simp only [stepInstance, h, hs]

/-- A step of core k replaces that core's state by its next one, if there is such a core. -/
theorem stepInstance_next (h : stepInstance k cores = .next cores') :
    (cores[k]? = none ∧ cores' = cores) ∨ ∃ s s', cores[k]? = some s ∧ step s = .next s' ∧ cores' = cores.set k s' := by
  unfold stepInstance at h
  split at h
  · rename_i hk
    cases h
    exact .inl ⟨hk, rfl⟩
  · rename_i s hk
    split at h
    · rename_i s' hs
      cases h
      exact .inr ⟨s, s', hk, hs, rfl⟩
    · cases h
    · cases h

theorem stepInstance_getElem?_ne (hne : j ≠ k) (h : stepInstance k cores = .next cores') : cores'[j]? = cores[j]? := by
  obtain ⟨-, rfl⟩ | ⟨s, s', -, -, rfl⟩ := stepInstance_next h
  · rfl
  · exact List.getElem?_set_ne hne.symm

/-- A step of core j does not see what stands in the place of core k. -/
theorem stepInstance_set (hne : j ≠ k) (h : stepInstance j cores = .next cores') (s : State) :
    stepInstance j (cores.set k s) = .next (cores'.set k s) := by
  have hget : (cores.set k s)[j]? = cores[j]? := List.getElem?_set_ne hne.symm
  obtain ⟨hj, rfl⟩ | ⟨t, t', hj, ht, rfl⟩ := stepInstance_next h
  · exact stepInstance_of_none (hget.trans hj)
  · rw [stepInstance_of_step (hget.trans hj) ht, List.set_comm _ _ hne.symm]

theorem stepTwo_eq_next {cores₁ cores₂ : List State} (h₁ : stepInstance j cores = .next cores₁)
    (h₂ : stepInstance k cores₁ = .next cores₂) : stepTwo j k cores = .next cores₂ := by
  simp only [stepTwo, h₁, h₂]

theorem stepTwo_next (h : stepTwo j k cores = .next cores') :
    ∃ cores₁, stepInstance j cores = .next cores₁ ∧ stepInstance k cores₁ = .next cores' := by
  unfold stepTwo at h
  split at h
  · rename_i cores₁ h₁
    exact ⟨cores₁, h₁, h⟩
  · cases h
  · cases h

theorem stepTwo_comm (hne : j ≠ k) (h : stepTwo j k cores = .next cores') : stepTwo k j cores = .next cores' := by
  obtain ⟨cores₁, hj, hk⟩ := stepTwo_next h
  have hget : cores₁[k]? = cores[k]? := stepInstance_getElem?_ne hne.symm hj
  obtain ⟨hnone, rfl⟩ | ⟨s, s', hsome, hs, rfl⟩ := stepInstance_next hk
  · exact stepTwo_eq_next (stepInstance_of_none (hget.symm.trans hnone)) hj
  · exact stepTwo_eq_next (stepInstance_of_step (hget.symm.trans hsome) hs) (stepInstance_set hne hj s')

end Instances

/-- Settles O25: a step replaces one element of the list and reads no other, and all instances come out of the same reset. -/
theorem instancesAreIndependent : Obligations.InstancesAreIndependent := by
  refine ⟨fun k j cores cores' => stepInstance_getElem?_ne, fun j k cores cores' => stepTwo_comm, fun n t s hs => ?_⟩
  rw [List.eq_of_mem_replicate hs, State.afterReset_toCoreState, CoreState.afterReset_fatal]

end Sys2Proof.Machine
end

section
/-! The cycles of the ports (R39, R131): what each action shows and does, and the operation they add up to. -/

namespace Sys2Proof.Machine

open Sys2Proof

/-! The outputs of a cycle, from its response -/

section Outputs

variable {L : Nat} {p : PortInputs} {s : State}

theorem portOutputs_of_response {r : Option Response} (h : portResponse L p s = r) :
    portOutputs L p s = ⟨!p.rst && s.cmdReady, r.isSome, r.map fun r => r.status.code, r.bind fun r => r.data, s.fatal,
      if s.fatal then 2 else 0⟩ := by
  subst h
  rfl

theorem portResponse_of_accept {w : CmdWord} (h : portAction L p s.toCoreState = .accept w) :
    portResponse L p s = none := by
  simp only [portResponse, coreClock, h]

theorem portResponse_of_wait {o : InFlight} (h : portAction L p s.toCoreState = .wait o) : portResponse L p s = none := by
  simp only [portResponse, coreClock, h]

/-- What a cycle does and answers, it does by its action: the pins have no other effect. -/
theorem coreClock_congr {q : PortInputs} {t : Tables} {c : CoreState} (h : portAction L p c = portAction L q c) :
    coreClock L t p c = coreClock L t q c := by
  simp only [coreClock, h]

end Outputs

/-! A cycle that runs a command word -/

/-- What the operation of a command word computes (R32, R81, R82). -/
def wordValue (t : CheckedTables) (w : CmdWord) : Block := valueOf (commandOf w) t (CmdWord.block w) (CmdWord.key w)

theorem coreWord_of {t : Tables} {c : CoreState} (w : CmdWord) (hc : c.blocked = none) (ht : rangeOk t = true) :
    coreWord t (Bits.of w) c = .next (c, some (.ok (wordValue (checkedTables t ht) w))) := by
  simp only [coreWord, decode_of]
  rw [coreExec_eq, operate_ok hc (operands64_commandOf w) ht, wordValue]

section Due

variable {L : Nat} {p : PortInputs} {s : State} {w : CmdWord} (ha : portAction L p s.toCoreState = .respond w)
  (hc : (s.setInFlight none).blocked = none) (ht : rangeOk s.rom = true)
include hc ht

theorem runWord_setInFlight_none : runWord (Bits.of w) (s.setInFlight none) =
    .next ((s.setInFlight none).respond (.ok (wordValue (checkedTables s.rom ht) w))) := by
  rw [runWord_eq_absorb, State.setInFlight_rom, coreWord_of w hc ht, State.absorb_response]

include ha

theorem portResponse_of_respond : portResponse L p s = some (.ok (wordValue (checkedTables s.rom ht) w)) := by
  have hw : coreWord s.rom (Bits.of w) (s.toCoreState.setInFlight none) = _ := coreWord_of w hc ht
  simp only [portResponse, coreClock, ha, hw]

theorem clockEdge_of_respond :
    clockEdge L p s = .next ((s.setInFlight none).respond (.ok (wordValue (checkedTables s.rom ht) w))) := by
  simp only [clockEdge_eq, ha]
  exact runWord_setInFlight_none hc ht

end Due

/-! A core with an operation in progress -/

theorem CoreState.cmdReady_of_busy {c : CoreState} {o : InFlight} (ho : c.inFlight = some o) : c.cmdReady = false := by
  simp [CoreState.cmdReady, ho]

/-- Put the operation aside, and only FATAL can block a core out of reset. -/
theorem blocked_setInFlight_none {s : State} (hi : s.inReset = false) (hf : s.fatal = false) :
    (s.setInFlight none).blocked = none :=
  (CoreState.blocked_eq_none _).2 (CoreState.cmdReady_eq_true.2 ⟨hi, hf, rfl⟩)

section Busy

variable {L : Nat} {p : PortInputs} {s : State} {o : InFlight} (ho : s.inFlight = some o) (hi : s.inReset = false)
include ho hi

theorem portAction_of_busy (hp : p.rst = false) :
    portAction L p s.toCoreState = if o.remaining = 0 then .respond o.word else .wait o := by
  simp [portAction, hp, hi, ho]

theorem portAction_of_due (hp : p.rst = false) (hz : o.remaining = 0) :
    portAction L p s.toCoreState = .respond o.word := by
  rw [portAction_of_busy ho hi hp, if_pos hz]

theorem portAction_of_waiting (hp : p.rst = false) (hz : o.remaining ≠ 0) : portAction L p s.toCoreState = .wait o := by
  rw [portAction_of_busy ho hi hp, if_neg hz]

theorem clockEdge_of_due (hp : p.rst = false) (hz : o.remaining = 0) :
    clockEdge L p s = runWord (Bits.of o.word) (s.setInFlight none) := by
  rw [clockEdge_eq, portAction_of_due ho hi hp hz]

theorem clockEdge_of_waiting (hp : p.rst = false) (hz : o.remaining ≠ 0) :
    clockEdge L p s = .next (s.setInFlight (some ⟨o.word, o.remaining - 1⟩)) := by
  rw [clockEdge_eq, portAction_of_waiting ho hi hp hz]

end Busy

/-! A ready core -/

section Ready

variable {L : Nat} {p : PortInputs} {s : State} (h : s.Ready)
include h

theorem State.Ready.cmdReady : s.cmdReady = true := s.blocked_eq_none.1 h.blocked

theorem State.Ready.setInFlight_none : s.setInFlight none = s := s.setInFlight_none h.notBusy

variable (hp : p.rst = false)
include hp

theorem portAction_of_ready :
    portAction L p s.toCoreState = if p.cmdValid then (if L = 0 then .respond p.word else .accept p.word) else .idle := by
  simp [portAction, hp, h.notInReset, h.notBusy, h.cmdReady]

/-- A ready core in a cycle without a response. -/
theorem portOutputs_of_ready (hr : portResponse L p s = none) :
    portOutputs L p s = ⟨true, false, none, none, false, 0⟩ := by
  rw [portOutputs_of_response hr, hp, h.cmdReady, h.notFatal]
  rfl

end Ready

/-! The statements about one cycle -/

/-- Settles O53: the port is `cmd_ready` of the state, except in a cycle with `rst` high. -/
theorem cmdReadyExactlyWhenIdleAndGood : Obligations.CmdReadyExactlyWhenIdleAndGood := by
  intro L p s
  rw [portOutputs_of_response rfl, Bool.and_eq_true, Bool.not_eq_true', CoreState.cmdReady_eq_true]

/-- Settles O54: the action of the cycle is an acceptance or none at all. -/
theorem acceptanceCycleSamplesTheCommand : Obligations.AcceptanceCycleSamplesTheCommand := by
  intro L p s h hp
  have ha : portAction L p s.toCoreState = _ := portAction_of_ready h hp
  refine ⟨fun hv hL => ?_, fun hv => ?_⟩
  · rw [hv, if_pos rfl, if_neg hL] at ha
    exact ⟨portOutputs_of_ready h hp (portResponse_of_accept ha), by rw [clockEdge_eq, ha]; rfl⟩
  · rw [hv, if_neg Bool.false_ne_true] at ha
    exact ⟨portOutputs_of_ready h hp (portResponse_of_idle ha), by rw [clockEdge_eq, ha]⟩

/-- Settles O59: with `rst` high the action is to hold, whatever else the pins and the state say. -/
theorem resetWinsOverAcceptanceAndResponse : Obligations.ResetWinsOverAcceptanceAndResponse := by
  intro L p s hp
  refine ⟨(clockEdge_of_rst hp).trans (by rw [State.holdReset_eq]), ?_⟩
  rw [portOutputs_of_response (portResponse_of_hold (portAction_of_rst hp)), hp]
  rfl

/-- Settles O55: while an operation is in progress the action is to wait or to respond, by the cycles that remain alone. -/
theorem pinsWhileBusyAreIgnored : Obligations.PinsWhileBusyAreIgnored := by
  intro L p s o ho hi hp
  have haction : portAction L p s.toCoreState = portAction L PortInputs.idle s.toCoreState := by
    rw [portAction_of_busy ho hi hp, portAction_of_busy ho hi rfl]
  have hclock := coreClock_congr (t := s.rom) haction
  have hresponse : portResponse L p s = portResponse L PortInputs.idle s := by simp only [portResponse, hclock]
  have hready := CoreState.cmdReady_of_busy ho
  refine ⟨by rw [clockEdge, hclock, clockEdge], ?_, ?_, fun hz => ?_, fun hz hf ht => ?_⟩
  · rw [portOutputs_of_response hresponse, portOutputs_of_response rfl, hready, Bool.and_false, Bool.and_false]
  · rw [portOutputs_of_response rfl, hready, Bool.and_false]
  · have hwait : portResponse L p s = none := portResponse_of_wait (portAction_of_waiting ho hi hp hz)
    exact ⟨clockEdge_of_waiting ho hi hp hz, portOutputs_rspValid_eq_false.2 hwait⟩
  · have ha : portAction L p s.toCoreState = _ := portAction_of_due ho hi hp hz
    rw [portOutputs_of_response (portResponse_of_respond ha (blocked_setInFlight_none hi hf) ht)]
    rfl

/-- Settles O56: the action of the cycle is to respond, for an operation in progress by its due time, for LATENCY = 0 by
its acceptance. -/
theorem responseCycleShowsTheResult : Obligations.ResponseCycleShowsTheResult := by
  refine ⟨fun L p s w ho hi hf ht hp => ?_, fun p s h hp hv => ?_⟩
  · have ha : portAction L p s.toCoreState = .respond w := portAction_of_due ho hi hp rfl
    have hc := blocked_setInFlight_none hi hf
    refine ⟨_, runWord_setInFlight_none hc ht, ?_, clockEdge_of_respond ha hc ht⟩
    rw [portOutputs_of_response (portResponse_of_respond ha hc ht), CoreState.cmdReady_of_busy ho, Bool.and_false, hf]
    rfl
  · have ha : portAction 0 p s.toCoreState = _ := portAction_of_ready h hp
    rw [hv, if_pos rfl, if_pos rfl] at ha
    have hc : (s.setInFlight none).blocked = none := by rw [h.setInFlight_none, h.blocked]
    have hrun := runWord_setInFlight_none (w := p.word) hc h.tables
    have hedge := clockEdge_of_respond ha hc h.tables
    rw [h.setInFlight_none] at hrun hedge
    refine ⟨_, hrun, ?_, hedge⟩
    rw [portOutputs_of_response (portResponse_of_respond ha hc h.tables), hp, h.cmdReady, h.notFatal]
    rfl

/-! Several cycles -/

section Cycles

variable {L : Nat} {p : PortInputs} {s s' : State}

theorem clockEdges_cons_of_next (h : clockEdge L p s = .next s') (ps : List PortInputs) :
    clockEdges L (p :: ps) s = clockEdges L ps s' := by
  simp only [clockEdges, h]

theorem clockEdges_singleton (L : Nat) (p : PortInputs) (s : State) : clockEdges L [p] s = clockEdge L p s := by
  simp only [clockEdges]
  cases clockEdge L p s <;> rfl

/-- An operation in progress does what its command word does, once its cycles have passed. -/
theorem clockEdges_of_busy {o : InFlight} (ho : s.inFlight = some o) (hi : s.inReset = false) {later : List PortInputs}
    (hlater : ∀ q ∈ later, q.rst = false) (hn : later.length = o.remaining + 1) :
    clockEdges L later s = runWord (Bits.of o.word) (s.setInFlight none) := by
  induction later generalizing s o with
  | nil => cases hn
  | cons q qs ih =>
    have hq : q.rst = false := hlater q List.mem_cons_self
    have hlen : qs.length = o.remaining := Nat.succ.inj hn
    by_cases hz : o.remaining = 0
    · obtain rfl := List.length_eq_zero_iff.mp (hlen.trans hz)
      rw [clockEdges_singleton, clockEdge_of_due ho hi hq hz]
    · have hleft : qs.length = o.remaining - 1 + 1 := by omega
      rw [clockEdges_cons_of_next (clockEdge_of_waiting ho hi hq hz)]
      exact ih (o := ⟨o.word, o.remaining - 1⟩) rfl hi (fun q hq => hlater q (List.mem_cons_of_mem _ hq)) hleft

end Cycles

/-- Settles O51: with LATENCY = 0 the cycle of the acceptance runs the command; otherwise the acceptance puts its word in
progress, due in LATENCY - 1 further cycles. -/
theorem portsRefineTheOperation : Obligations.PortsRefineTheOperation := by
  intro L s p later h hp hv hlen hlater
  have ha : portAction L p s.toCoreState = _ := portAction_of_ready h hp
  rw [hv, if_pos rfl] at ha
  cases L with
  | zero =>
    obtain rfl := List.length_eq_zero_iff.mp hlen
    rw [clockEdges_singleton, clockEdge_eq, ha]
    exact congrArg (runWord _) h.setInFlight_none
  | succ n =>
    have hedge : clockEdge (n + 1) p s = .next (s.setInFlight (some ⟨p.word, n⟩)) := by
      rw [clockEdge_eq, ha]
      rfl
    have hbusy := clockEdges_of_busy (L := n + 1) (s := s.setInFlight (some ⟨p.word, n⟩)) rfl h.notInReset hlater hlen
    rw [clockEdges_cons_of_next hedge, hbusy, State.setInFlight_setInFlight, h.setInFlight_none]

/-- A run of clock events is the cycles of their pins, which leave the events after them alone. -/
theorem run_clocks (ps : List PortInputs) (rest : List HostEvent) (s : State) (h : s.inputs = ps.map .clock ++ rest) :
    Host.Core.run Sys2Proof.core ps.length s = clockEdges Config.latency ps (s.setInputs rest) := by
  induction ps generalizing s with
  | nil =>
    have hrest : s.inputs = rest := h
    rw [← hrest]
    rfl
  | cons p ps ih =>
    -- the core's answer does not depend on the pending inputs
    have hstep : Sys2Proof.core.step s =
        (s.setInputs (ps.map .clock ++ rest)).absorb (coreClock Config.latency s.rom p s.toCoreState) := step_of_inputs h
    simp only [List.length_cons, Host.Core.run, hstep, clockEdges, clockEdge, State.setInputs_toCoreState,
      State.setInputs_rom]
    obtain ⟨c, _ | r⟩ | r | r := coreClock Config.latency s.rom p s.toCoreState
    · exact ih _ rfl
    · exact ih _ rfl
    · rfl
    · rfl

/-- Settles O52: the machine's clock events are the cycles of the ports, at its own LATENCY. -/
theorem clockStepsRefineTheOperation : Obligations.ClockStepsRefineTheOperation := by
  intro s p later rest h hp hv hlen hlater hin
  have hrun := run_clocks (p :: later) rest s hin
  rw [List.length_cons, hlen] at hrun
  exact hrun.trans (portsRefineTheOperation _ _ p later (h.setInputs rest) hp hv hlen hlater)

/-- The first cycle with `rst` low after a reset validates the tables (log 8). -/
theorem clockEdge_of_release {L : Nat} {p : PortInputs} {s : State} (hp : p.rst = false) (hi : s.inReset = true) :
    clockEdge L p s = .next s.releaseReset := by
  have ha : portAction L p s.toCoreState = .release := by simp [portAction, hp, hi]
  rw [clockEdge_eq, ha]

/-- Settles O60: both in cycles and in events the reset holds the core, and the release starts it over its ROM. -/
theorem resetThenReleaseRestartsTheCore : Obligations.ResetThenReleaseRestartsTheCore := by
  refine ⟨fun L s p q hp hq => ?_, fun s rest hin => ?_⟩
  · rw [clockEdges_cons_of_next (clockEdge_of_rst hp), clockEdges_singleton, clockEdge_of_release hq rfl,
      State.releaseReset_holdReset, State.releaseReset_eq]
  · exact (run_succ_of_assertReset hin 1).trans (run_one_of_releaseReset rfl rfl)

end Sys2Proof.Machine
end

section
/-! STRUCT_OK, clause by clause (R44), and the spec's two table instances (R107, R109). -/

namespace Sys2Proof.Machine

open Sys2Proof

section Occurrences

/-- How often a value stands in a table, counted over its indices. -/
theorem count_toList_eq_card {M : Nat} (t : Vector Nat M) (v : Nat) :
    t.toList.count v = (Finset.univ.filter fun i : Fin M => t[i] = v).card :=
  (Fin.card_filter_univ_eq_vector_get_eq_count v ⟨t.toList, t.length_toList⟩).symm

/-- Each value once: exactly one index holds it (R44). -/
theorem bijective_iff {n M : Nat} (t : Vector Nat M) :
    bijective n t.toList = true ↔ ∀ v, 1 ≤ v → v ≤ n → ∃! i : Fin M, t[i] = v := by
  simp only [bijective, List.all_eq_true, List.mem_range'_1, beq_iff_eq, count_toList_eq_card,
    Fintype.existsUnique_iff_card_one]
  exact forall_congr' fun v => ⟨fun h hv hn => h ⟨hv, by omega⟩, fun h hv => h hv.1 (by omega)⟩

/-- How many of the values 1 to n a function sends to c. -/
theorem count_map_range'_eq_card (f : Nat → Nat) (n c : Nat) :
    ((List.range' 1 n).map f).count c = ((Finset.Icc 1 n).filter fun v => f v = c).card := by
  rw [List.count, List.countP_map, Nat.Icc_eq_range', Finset.card, Finset.filter_val,
    ← Multiset.countP_eq_card_filter, Multiset.coe_countP]
  rfl

end Occurrences

theorem fpInvertsIp_iff (t : Tables) :
    fpInvertsIp t = true ↔ ∀ j : Fin 64, t.ip[t.fp[j] - 1]? = some (j.val + 1) := by
  refine ⟨fun h j => ip_getElem?_fp h j.isLt, fun h => ?_⟩
  rw [fpInvertsIp, List.all_eq_true]
  intro v hv
  obtain ⟨hpos, hle⟩ := List.mem_range'_1.mp hv
  have hin : v - 1 < 64 := by omega
  have hback : v - 1 + 1 = v := by omega
  simpa [hin, hback] using h ⟨v - 1, hin⟩

theorem expansionOk_iff (t : Tables) : expansionOk t = true ↔
    ((Finset.Icc 1 32).filter fun v => (Finset.univ.filter fun i : Fin 48 => t.e[i] = v).card = 2).card = 16 ∧
    ((Finset.Icc 1 32).filter fun v => (Finset.univ.filter fun i : Fin 48 => t.e[i] = v).card = 1).card = 16 := by
  simp only [expansionOk, Bool.and_eq_true, beq_iff_eq, count_map_range'_eq_card, count_toList_eq_card]

/-- Settles O9: each check of STRUCT_OK is its clause. -/
theorem structOkIsItsClauses : Obligations.StructOkIsItsClauses := by
  intro t
  rw [structOk, ipFpOk, Bool.and_eq_true, Bool.and_eq_true, Bool.and_eq_true, Bool.and_eq_true, bijective_iff, bijective_iff,
    bijective_iff, fpInvertsIp_iff, expansionOk_iff]
  simp only [and_assoc]

/-- Settles O10: the two closed instances, evaluated by the kernel. -/
theorem specTableInstancesPassBothChecks : Obligations.SpecTableInstancesPassBothChecks := by
  unfold Obligations.SpecTableInstancesPassBothChecks
  decide +kernel

end Sys2Proof.Machine
end

section
/-! A value written as digits and read back: bytes (R23), and the hexadecimal digits of a listing (R38). -/

namespace Sys2Proof.Machine

open Sys2Proof

/-! Bytes -/

/-- The first k bytes of a value, read as a number, are its upper 8k bits (R23). -/
theorem foldl_bytes_eq_shiftRight (v : Block) {k : Nat} (hk : k ≤ 8) :
    ((List.range k).map fun j => slice v (56 - 8 * j) 8).foldl (fun y b => 256 * y + b.toNat) 0 =
      v.toNat >>> (64 - 8 * k) := by
  induction k with
  | zero => exact (Nat.shiftRight_eq_zero _ _ v.isLt).symm
  | succ k ih =>
    have hnext : 64 - 8 * k = 64 - 8 * (k + 1) + 8 := by omega
    have hpos : 56 - 8 * k = 64 - 8 * (k + 1) := by omega
    rw [List.range_succ, List.map_append, List.foldl_append, ih (by omega), hnext, Nat.shiftRight_add]
    simp only [List.map_cons, List.map_nil, List.foldl_cons, List.foldl_nil, BitVec.extractLsb'_toNat, hpos]
    rw [Nat.shiftRight_eq_div_pow _ 8]
    exact Nat.div_add_mod _ 256

/-- Settles O18: byte 0 is the most significant, so all eight read back are the value. -/
theorem blockBytesAreBigEndian : Obligations.BlockBytesAreBigEndian := by
  intro v
  refine ⟨?_, fun k => ?_⟩
  · have hvalue : BitVec.ofNat 64 ((blockBytes v).foldl (fun y b => 256 * y + b.toNat) 0) = v := by
      rw [blockBytes, foldl_bytes_eq_shiftRight v (Nat.le_refl 8), Nat.sub_self, Nat.shiftRight_zero, BitVec.ofNat_toNat,
        BitVec.setWidth_eq]
    exact congrArg (Bits.mk 64) hvalue
  · simp [blockBytes, k.isLt]

/-! Hexadecimal digits -/

theorem hexValue_hexChar : ∀ d : BitVec 4, hexValue (hexChar d) = some d := by
  decide

/-- A number with one more digit below the ones it has. -/
def appendDigit (a : Block) (d : BitVec 4) : Block := a <<< 4 ||| d.setWidth 64

/-- Digits written out are read back, each below the ones before it. -/
theorem readDigits_hexChars (ds : List (BitVec 4)) (acc : Block) (rest : List Char) :
    readDigits ds.length acc (ds.map hexChar ++ rest) =
      some (ds.foldl appendDigit acc, rest) := by
  induction ds generalizing acc with
  | nil => rfl
  | cons d ds ih =>
    simp only [List.length_cons, List.map_cons, List.cons_append, readDigits, hexValue_hexChar]
    exact ih (appendDigit acc d)

/-- The first k digits of a value, read in, are its upper 4k bits (R8). -/
theorem foldl_digits_eq_shiftRight (v : Block) {k : Nat} (hk : k ≤ 16) :
    ((List.range k).map fun j => slice v (60 - 4 * j) 4).foldl appendDigit 0 =
      v >>> (64 - 4 * k) := by
  induction k with
  | zero => exact (BitVec.ushiftRight_eq_zero (Nat.le_refl 64)).symm
  | succ k ih =>
    rw [List.range_succ, List.map_append, List.foldl_append, ih (by omega)]
    refine BitVec.eq_of_getLsbD_eq fun i hi => ?_
    simp only [List.map_cons, List.map_nil, List.foldl_cons, List.foldl_nil, appendDigit, BitVec.getLsbD_or,
      BitVec.getLsbD_shiftLeft, BitVec.getLsbD_ushiftRight, BitVec.getLsbD_setWidth, BitVec.getLsbD_extractLsb', hi]
    by_cases hlow : i < 4
    · have hpos : 60 - 4 * k + i = 64 - 4 * (k + 1) + i := by omega
      simp [hlow, hpos]
    · have hpos : 64 - 4 * k + (i - 4) = 64 - 4 * (k + 1) + i := by omega
      simp [hlow, hpos]

/-- An operand's text reads back as the operand, whatever follows it (R38). -/
theorem readOperand_renderOperand (v : Block) (rest : List Char) :
    readOperand (renderOperand v ++ rest) = some (v, rest) := by
  have hdigits := readDigits_hexChars ((List.range 16).map fun j => slice v (60 - 4 * j) 4) 0 rest
  rw [foldl_digits_eq_shiftRight v (Nat.le_refl 16), List.map_map] at hdigits
  exact hdigits

/-- An operand's text begins with no blank. -/
theorem skipBlanks_renderOperand (v : Block) (rest : List Char) :
    skipBlanks (renderOperand v ++ rest) = renderOperand v ++ rest := rfl

/-- The line of a mnemonic and its operands (R38). -/
def lineOf (mnemonic : List Char) (b : Block) (k : Key) : List Char :=
  mnemonic ++ ' ' :: renderOperand b ++ ',' :: ' ' :: renderOperand k

theorem renderLine_enc (b : Block) (k : Key) :
    renderLine (.enc (Bits.of b) (Bits.of k)) = some (lineOf ['E', 'N', 'C'] b k) := by
  simp only [renderLine, Instr.block, Instr.key, operands64_of, lineOf]

theorem renderLine_dec (b : Block) (k : Key) :
    renderLine (.dec (Bits.of b) (Bits.of k)) = some (lineOf ['D', 'E', 'C'] b k) := by
  simp only [renderLine, Instr.block, Instr.key, operands64_of, lineOf]

theorem readOperands_rendered (build : Bits → Bits → Instr) (b : Block) (k : Key) :
    readOperands build (' ' :: (renderOperand b ++ ',' :: ' ' :: renderOperand k)) =
      some (build (Bits.of b) (Bits.of k)) := by
  have hblock := readOperand_renderOperand b (',' :: ' ' :: renderOperand k)
  have hkey : readOperand (skipBlanks (' ' :: renderOperand k)) = some (k, []) := by
    have := readOperand_renderOperand k []
    rwa [List.append_nil] at this
  simp only [readOperands, skipBlanks_renderOperand, hblock, hkey]
  rfl

/-- Settles O19: the mnemonic names the operation, and the two operands read back. -/
theorem listingLineReadsBack : Obligations.ListingLineReadsBack := by
  intro i hi
  obtain ⟨b, k, rfl | rfl⟩ := Instr.eq_of_wellFormed hi
  · exact ⟨_, renderLine_enc b k, readOperands_rendered .enc b k⟩
  · exact ⟨_, renderLine_dec b k, readOperands_rendered .dec b k⟩

end Sys2Proof.Machine
end
